-- ==== Sys2Proof/Word.lean ====
section
/-! DEFINITION. The units the block moves whole (20_memory.md R40, R46) and the two records of
channels: the four-channel Pixel (40_pixel_primitives.md R80) and the three colour lanes
(43_accumulator_normalizer.md, opening; 10_state.md R25). -/

namespace Sys2Proof

/-- The unit of `IMEM` and `OMEM` (R40). -/
abbrev Byte := BitVec 8

/-- The unit of `KMEM` and the beat of `GEN` (R40). -/
abbrev Half := BitVec 16

/-- The unit of `REG` and the command word (R40, R61). -/
abbrev RegWord := BitVec 32

/-- A Pixel: four channels of one width (R80). -/
structure Pixel (w : Nat) where
  r : BitVec w
  g : BitVec w
  b : BitVec w
  a : BitVec w
deriving DecidableEq, Repr, Inhabited

/-- A sample Pixel, read from `IMEM`: four `u8` channels (R80). -/
abbrev Sample := Pixel 8

/-- A weight Pixel, built from a kernel cell: four `i16` channels (R80). -/
abbrev Weight := Pixel 16

/-- One `i48` register for each colour lane: the accumulators of R25 and the quotients of R26. -/
structure Lanes where
  r : BitVec 48
  g : BitVec 48
  b : BitVec 48
deriving DecidableEq, Repr, Inhabited

end Sys2Proof
end

