-- ==== Sys2Proof/Machine/Record.lean ====
section
/-! DEFINITION. The fields of a kernel record's header (30_encoding.md R68). -/

namespace Sys2Proof

/-- `KROWS` of a record's header (R68). -/
def headerRows (h : Half) : BitVec 8 := h.extractLsb' 0 8

/-- `KCOLS` of a record's header (R68). -/
def headerCols (h : Half) : BitVec 8 := h.extractLsb' 8 8

end Sys2Proof
end

