-- ==== Sys2Proof/Syntax.lean ====
section
/-! DEFINITION. The operations of the block, one constructor per row of spec/opcode_table.json
(00_scope.md R1, 30_encoding.md R60): host commands, kernel-cell constructor forms, sequencer
operations. The primitives `OFFSET` and `GETPIXEL` have no encoding and are functions
(Machine/Operands.lean). -/

namespace Sys2Proof

/-- `KSRC`: where a pass takes its kernels from (30_encoding.md R61). -/
inductive KernelSource
  /-- 0, the record in `KMEM`. -/
  | static
  /-- 1, the generator on `GEN`. -/
  | generator
deriving DecidableEq, Repr, Inhabited

/-- The three formats (R60). -/
inductive Format
  | cmd
  | kcell
  | seq
deriving DecidableEq, Repr

/-- An operation. Fields are the encoded fields, at their encoded width. -/
inductive Instr
  /-- `NOP` (R137). -/
  | nop
  /-- `CONVOLVE` with `SRC_TAG`, `KSRC`, `SIZE_VALID`, `SIZE` (R61, R138). `SIZE` is kept when
  `SIZE_VALID` is 0: the word has it, the operation ignores it (U11). -/
  | convolve (srcTag : BitVec 4) (ksrc : KernelSource) (sizeValid : Bool) (size : BitVec 8)
  /-- `ACK` (R139). -/
  | ack
  /-- `PIXEL0` (R81). -/
  | pixel0
  /-- `SCALAR`, `n = V0` (R82). -/
  | scalar (n : Half)
  /-- `PIXEL2`, `n = V0`, `a = V1` (R83). -/
  | pixel2 (n a : Half)
  /-- `PIXEL3`, `r, g, b = V0, V1, V2` (R84). -/
  | pixel3 (r g b : Half)
  /-- `PIXEL4`, `r, g, b, a = V0, V1, V2, V3` (R85). -/
  | pixel4 (r g b a : Half)
  /-- `IDLE` (R150). -/
  | idle
  /-- `COLLECT` (R96, R97). -/
  | collect
  /-- `KRESOLVE` (R106). -/
  | kresolve
  /-- `KCHECK` (R110). -/
  | kcheck
  /-- `KSUM` (R120, R121). -/
  | ksum
  /-- `MAC` (R122). -/
  | mac
  /-- `NORM` (R124). -/
  | norm
  /-- `WRITE` (R130, R131). -/
  | write
deriving DecidableEq, Repr

/-- The format an operation is encoded in (R60). -/
def Instr.format : Instr → Format
  | .nop | .convolve _ _ _ _ | .ack => .cmd
  | .pixel0 | .scalar _ | .pixel2 _ _ | .pixel3 _ _ _ | .pixel4 _ _ _ _ => .kcell
  | .idle | .collect | .kresolve | .kcheck | .ksum | .mac | .norm | .write => .seq

end Sys2Proof
end

