-- ==== Sys2Proof/WellFormed.lean ====
section
/-! DEFINITION. What the spec calls well-formed. An operation's fields have their encoded width in
their types, so no ill-formed operation can be written; the checks that can fail are those on the
sequences of halfwords the spec defines: a kernel record (30_encoding.md R68, R69, R71) and an Area
record (R72). -/

namespace Sys2Proof

/-- Every operation that can be written has an encoding: its fields are bit fields of the width the
encoding gives them (R61, R69, R75). An unrecognised `SRC_TAG` is "a well-formed `CONVOLVE` whose
source is invalid" (R66). -/
def Instr.wellFormed : Instr → Bool
  | .nop | .ack => true
  | .convolve _ _ _ _ => true
  | .pixel0 | .scalar _ | .pixel2 _ _ | .pixel3 _ _ _ | .pixel4 _ _ _ _ => true
  | .idle | .collect | .kresolve | .kcheck | .ksum | .mac | .norm | .write => true

/-- The tags of a record's cells are all 0 to 4 (R69, R71): every fifth halfword. -/
def cellTagsLegal : List Half → Bool
  | tag :: _ :: _ :: _ :: _ :: rest => decide (tag.toNat ≤ 4) && cellTagsLegal rest
  | _ => true

/-- The halfwords are one whole kernel record: a header, then exactly five halfwords a cell, every
tag legal (R68, R69). -/
def kernelRecordWellFormed : List Half → Bool
  | [] => false
  | h :: cells =>
    decide (cells.length = 5 * (headerRows h).toNat * (headerCols h).toNat) && cellTagsLegal cells

/-- The beats are one whole Area record: the box, a centre inside it, and four beats a pixel (R72,
10_state.md R21). -/
def areaRecordWellFormed : List Half → Bool
  | left :: top :: right :: bottom :: cx :: cy :: pixels =>
    decide (left.toNat ≤ cx.toNat) && decide (cx.toNat ≤ right.toNat) &&
    decide (top.toNat ≤ cy.toNat) && decide (cy.toNat ≤ bottom.toNat) &&
    decide (pixels.length =
      4 * (bottom.toNat - top.toNat + 1) * (right.toNat - left.toNat + 1))
  | _ => false

end Sys2Proof
end

