-- ==== Sys2Proof/Decode.lean ====
section
/-! DEFINITION. Decoding (30_encoding.md R60 to R75): total on every code of the three formats,
rejecting by name; then the encoder. The rows are those of R62, R69 and R75. -/

namespace Sys2Proof

/-- Bits as the block meets them, in one of the three formats (R60). A cell comes with its four
value halfwords (R68). -/
inductive Code
  | cmd (w : RegWord)
  | kcell (tag v0 v1 v2 v3 : Half)
  | seq (c : BitVec 3)
deriving DecidableEq, Repr

/-- Why bits are no operation. -/
inductive Reject
  /-- A command word that matches no row of R62 (R66). -/
  | illegalCommand
  /-- A cell `TAG` of 0x0005 to 0xFFFF (R71). -/
  | reservedTag
deriving DecidableEq, Repr

/-- What decoding answers. -/
inductive Decoded
  | ok (i : Instr)
  | reject (why : Reject)
deriving DecidableEq, Repr

/-- The operation, where there is one. -/
def Decoded.instr? : Decoded → Option Instr
  | .ok i => some i
  | .reject _ => none

/-- A row of an encoding table: a word `w` is of the row when `(w AND mask) = pattern` (R62). -/
structure Row (w : Nat) where
  pattern : BitVec w
  mask : BitVec w
deriving DecidableEq, Repr

/-- `(w AND mask) = match` (R62). -/
def rowHits {n : Nat} (row : Row n) (w : BitVec n) : Bool := w &&& row.mask == row.pattern

/-- R62, `NOP`. -/
def nopRow : Row 32 := ⟨0x00000000, 0xFFFFFFFF⟩
/-- R62, `CONVOLVE`. -/
def convolveRow : Row 32 := ⟨0x00000001, 0xFF00FC0F⟩
/-- R62, `ACK`. -/
def ackRow : Row 32 := ⟨0x00000002, 0xFFFFFFFF⟩
/-- R62, the rows of format `CMD`. -/
def cmdRows : List (Row 32) := [nopRow, convolveRow, ackRow]
/-- R69, the rows of format `KCELL`: the whole halfword is compared. -/
def kcellRows : List (Row 16) :=
  [⟨0x0000, 0xFFFF⟩, ⟨0x0001, 0xFFFF⟩, ⟨0x0002, 0xFFFF⟩, ⟨0x0003, 0xFFFF⟩, ⟨0x0004, 0xFFFF⟩]
/-- R75, the rows of format `SEQ`. -/
def seqRows : List (Row 3) :=
  [⟨0, 7⟩, ⟨1, 7⟩, ⟨2, 7⟩, ⟨3, 7⟩, ⟨4, 7⟩, ⟨5, 7⟩, ⟨6, 7⟩, ⟨7, 7⟩]

/-- `KSRC` from its bit (R61). -/
def kernelSourceOfBit (b : Bool) : KernelSource := if b then .generator else .static

/-- `KSRC` as its bit (R61). -/
def kernelSourceBit : KernelSource → Bool
  | .static => false
  | .generator => true

/-- The fields of a `CONVOLVE` word (R61, R63). -/
def convolveFields (w : RegWord) : Instr :=
  .convolve (w.extractLsb' 4 4) (kernelSourceOfBit (w.getLsbD 8)) (w.getLsbD 9)
    (w.extractLsb' 16 8)

/-- Format `CMD` (R61, R62, R66). -/
def decodeCmd (w : RegWord) : Decoded :=
  if rowHits nopRow w then .ok .nop
  else if rowHits convolveRow w then .ok (convolveFields w)
  else if rowHits ackRow w then .ok .ack
  else .reject .illegalCommand

/-- Format `KCELL` (R69, R70, R71): the tag says how many values are used, the others are ignored. -/
def decodeCell (tag v0 v1 v2 v3 : Half) : Decoded :=
  if tag = 0x0000 then .ok .pixel0
  else if tag = 0x0001 then .ok (.scalar v0)
  else if tag = 0x0002 then .ok (.pixel2 v0 v1)
  else if tag = 0x0003 then .ok (.pixel3 v0 v1 v2)
  else if tag = 0x0004 then .ok (.pixel4 v0 v1 v2 v3)
  else .reject .reservedTag

/-- Format `SEQ` (R75): all eight codes are used. -/
def decodeSeq (c : BitVec 3) : Instr :=
  if c = 0b000 then .idle
  else if c = 0b001 then .collect
  else if c = 0b010 then .kresolve
  else if c = 0b011 then .kcheck
  else if c = 0b100 then .ksum
  else if c = 0b101 then .mac
  else if c = 0b110 then .norm
  else .write

/-- The decoder. -/
def decode : Code → Decoded
  | .cmd w => decodeCmd w
  | .kcell tag v0 v1 v2 v3 => decodeCell tag v0 v1 v2 v3
  | .seq c => .ok (decodeSeq c)

/-- A `CONVOLVE` word: `0x1 | src<<4 | ksrc<<8 | size_valid<<9 | size<<16` (R76). -/
def convolveWord (srcTag : BitVec 4) (ksrc : KernelSource) (sizeValid : Bool) (size : BitVec 8) :
    RegWord :=
  0#8 ++ size ++ 0#6 ++ BitVec.ofBool sizeValid ++ BitVec.ofBool (kernelSourceBit ksrc) ++ srcTag
    ++ 1#4

/-- The encoder (R62, R69, R75, R76). A value field a cell's form does not use is 0. -/
def encode : Instr → Code
  | .nop => .cmd 0x00000000
  | .convolve t k v z => .cmd (convolveWord t k v z)
  | .ack => .cmd 0x00000002
  | .pixel0 => .kcell 0x0000 0 0 0 0
  | .scalar n => .kcell 0x0001 n 0 0 0
  | .pixel2 n a => .kcell 0x0002 n a 0 0
  | .pixel3 r g b => .kcell 0x0003 r g b 0
  | .pixel4 r g b a => .kcell 0x0004 r g b a
  | .idle => .seq 0b000
  | .collect => .seq 0b001
  | .kresolve => .seq 0b010
  | .kcheck => .seq 0b011
  | .ksum => .seq 0b100
  | .mac => .seq 0b101
  | .norm => .seq 0b110
  | .write => .seq 0b111

/-- The code whose bits are `w`, in a row of `nbits` bits of spec/opcode_table.json: 32 is a command
word, 16 a cell's tag with value halfwords of 0 (80 the whole cell, the tag first), 8 (or 3) a phase
code, whose bits above the third do not exist and must be 0. -/
def codeOfTable (nbits w : Nat) : Option Code :=
  if nbits = 32 then
    if w < 2 ^ 32 then some (.cmd (BitVec.ofNat 32 w)) else none
  else if nbits = 16 ∨ nbits = 80 then
    if w < 2 ^ nbits then
      some (.kcell (BitVec.ofNat 16 w) (BitVec.ofNat 16 (w >>> 16)) (BitVec.ofNat 16 (w >>> 32))
        (BitVec.ofNat 16 (w >>> 48)) (BitVec.ofNat 16 (w >>> 64)))
    else none
  else if nbits = 8 ∨ nbits = 3 then
    if w < 8 then some (.seq (BitVec.ofNat 3 w)) else none
  else none

/-- The operation the decoder reads from an opcode-table row's bits. -/
def decodeTableWord (nbits w : Nat) : Option Instr :=
  match codeOfTable nbits w with
  | none => none
  | some c => (decode c).instr?

end Sys2Proof
end

