-- ==== Sys2Proof/Machine/Work.lean ====
section
/-! DEFINITION. The engine working registers (10_state.md R18, R20 to R26), as one record, because
they live and die together: "undefined (holds no value) whenever `BUSY = 0`" (R27). -/

namespace Sys2Proof.Machine

/-- The working registers, under the spec's names. -/
structure Work where
  /-- `cur_x` of the scan position (R18). -/
  curX : BitVec 16
  /-- `cur_y` of the scan position (R18). -/
  curY : BitVec 16
  /-- `lat_w` (R20). -/
  latW : BitVec 16
  /-- `lat_h` (R20). -/
  latH : BitVec 16
  /-- `lat_size` (R20). -/
  latSize : BitVec 8
  /-- `lat_half` (R20). -/
  latHalf : BitVec 7
  /-- `lat_ksrc` (R20). -/
  latKsrc : KernelSource
  /-- `left` of the Area box (R21). -/
  left : BitVec 16
  /-- `right` of the Area box (R21). -/
  right : BitVec 16
  /-- `top` of the Area box (R21). -/
  top : BitVec 16
  /-- `bottom` of the Area box (R21). -/
  bottom : BitVec 16
  /-- `rows` of the Area (R21). -/
  rows : BitVec 8
  /-- `cols` of the Area (R21). -/
  cols : BitVec 8
  /-- `krows` of the kernel header (R22). -/
  krows : BitVec 8
  /-- `kcols` of the kernel header (R22). -/
  kcols : BitVec 8
  /-- The window buffer (R23), row-major: `win[i][j]` is entry `i*cols + j`. -/
  win : List Sample
  /-- The halfwords of the record taken from the generator for this coordinate (R106, R109). -/
  krec : List Half
  /-- The kernel buffer (R24), row-major: `ker[i][j]` is entry `i*cols + j`. While `KCHECK` decodes,
  its length is the index of the next cell. -/
  ker : List Weight
  /-- `KCHECK` has passed the shape check and is at its loop over the cells (R110). -/
  decoding : Bool
  /-- `ksum_r`, `ksum_g`, `ksum_b` (R25). -/
  ksum : Lanes
  /-- `asum_r`, `asum_g`, `asum_b` (R25). -/
  asum : Lanes
  /-- `q_r`, `q_g`, `q_b` (R26). -/
  quot : Lanes
deriving DecidableEq, Repr, Inhabited

/-- The working registers at reset. The spec gives them no value (R28). DESIGN CHOICE (log 1): each
at the least value its own rule allows, the buffers empty. UNSAFE where a claim leans on it. -/
def Work.reset : Work where
  curX := 0
  curY := 0
  latW := 1
  latH := 1
  latSize := 1
  latHalf := 0
  latKsrc := .static
  left := 0
  right := 0
  top := 0
  bottom := 0
  rows := 1
  cols := 1
  krows := 0
  kcols := 0
  win := []
  krec := []
  ker := []
  decoding := false
  ksum := ⟨0, 0, 0⟩
  asum := ⟨0, 0, 0⟩
  quot := ⟨0, 0, 0⟩

end Sys2Proof.Machine
end

