-- ==== Sys2Proof/Config.lean ====
section
/-! DEFINITION. What is fixed for the machine: the parameters of 00_scope.md R5, the sizes of the
address spaces (20_memory.md R40), and the free values, constants without a body for what the spec
leaves unspecified (93_implementation_defined.md U3, U7, U15; 10_state.md R27). -/

namespace Sys2Proof.Config

/-- `ALPHA_OUT` (R5). -/
def alphaOut : Byte := 255

/-- `KSIZE_DEFAULT_RESET` (R5). -/
def ksizeDefaultReset : BitVec 8 := 5

/-- The bytes of `IMEM` and of `OMEM`: "at most `65535*65535*4`" (R40). DEDUCED (log 17). -/
def imageBytes : Nat := 65535 * 65535 * 4

/-- The halfwords of `KMEM`: "at most `1 + 5*255*255 = 325126`" (R40). DEDUCED (log 17). -/
def kmemHalves : Nat := 325126

/-- The byte `IMEM` holds at an address nothing has written: unspecified (R28, U15; log 3). -/
opaque imemPowerUp : Nat → Byte

/-- The halfword `KMEM` holds at an address nothing has written: unspecified (R28, U15; log 3). -/
opaque kmemPowerUp : Nat → Half

/-- The byte a host read of `OMEM` returns where its contents are unspecified (R52, U3; log 4), by
the number of free values drawn before. -/
opaque freeByte : Nat → Byte

/-- The phase a read of `STATUS` returns while `BUSY = 1`, less one: "an unspecified one of the codes
1 to 7" (R12, U7; log 5). -/
opaque freePhase : Nat → Fin 7

/-- The working registers once they are undefined (R27, R145, R160; log 2). -/
opaque freeWork : Nat → Machine.Work

end Sys2Proof.Config
end

