-- ==== Sys2Proof/Machine/State.lean ====
section
/-! DEFINITION. The state of the system (10_state.md R10), the events the outside world may send it,
the reasons a step can stop, and the state after reset (R28). -/

namespace Sys2Proof.Machine

/-- The engine state that `STATUS` shows: exactly one of four (R12). -/
inductive Mode
  | idle
  | busy
  | done
  | error
deriving DecidableEq, Repr, Inhabited

/-- The error classes (30_encoding.md R73); `none` is code 0. -/
inductive ErrCode
  | none
  | invalidSource
  | kernelShape
  | degenerateKernel
  | configuration
deriving DecidableEq, Repr, Inhabited

/-- One event: whose move comes next (00_scope.md R4; 45_sequencer_commands.md R148). DESIGN CHOICE
(log 7): the outside world's moves, and the turns it leaves to the engine, are one list. -/
inductive Event
  /-- The engine performs its next operation. -/
  | engine
  /-- The host writes the 32-bit word `v` at byte offset `off` of `REG` (R45). -/
  | regWrite (off : Nat) (v : RegWord)
  /-- The host reads the 32-bit word at byte offset `off` of `REG` (R45). -/
  | regRead (off : Nat)
  /-- The host writes a byte of `IMEM` (R40). -/
  | imemWrite (addr : Nat) (v : Byte)
  /-- The host reads a byte of `IMEM` (R40). -/
  | imemRead (addr : Nat)
  /-- The host writes a halfword of `KMEM` (R40). -/
  | kmemWrite (addr : Nat) (v : Half)
  /-- The host reads a halfword of `KMEM` (R40). -/
  | kmemRead (addr : Nat)
  /-- The host reads a byte of `OMEM` (R40). -/
  | omemRead (addr : Nat)
  /-- The reset input (70_reset_and_hazards.md R175, R177). -/
  | reset
deriving DecidableEq, Repr

/-- Why the machine stops with a fault. -/
inductive Fault
  /-- `COLLECT` or `WRITE` at a coordinate outside the image, which the source calls undefined and a
  model must fault on (U1; 20_memory.md R47). No run reaches it (R99). Safe. -/
  | outsideImage
  /-- `KCHECK` met the end of the record taken from the generator before the last cell. No run
  reaches it: `KRESOLVE` takes a whole record (R109). Safe. -/
  | recordTooShort
  /-- A host access to an address beyond its address space (R40; log 17). Safe. -/
  | noSuchAddress
deriving DecidableEq, Repr

/-- Why a step has no meaning. -/
inductive Refusal
  /-- An instruction without a meaning yet (raised by a refused arm of exec only). Safe. -/
  | notModelled (mnemonic : String)
  /-- A host access to `IMEM` or `KMEM` while `BUSY = 1`, which the host must not make (R40, R51;
  U4: `refuse`; log 14). Safe. -/
  | inputAccessWhileBusy
  /-- A `REG` access at an offset that is not a multiple of 4 (R45; U9: `refuse`; log 15). Safe. -/
  | unalignedRegister
deriving DecidableEq, Repr

end Sys2Proof.Machine

namespace Sys2Proof.Machine

/-- The whole state (R10): the host-visible registers, the working registers, the memories, the
hidden output-valid condition, the `GEN` port, and the model's own record of the outside world. -/
structure State where
  /-- `STATUS.BUSY`, `DONE`, `ERROR` (R12). -/
  mode : Mode
  /-- The phase register, `STATUS.PHASE` (R19). -/
  phase : BitVec 3
  /-- `ERR_CODE` (R14). -/
  errCode : ErrCode
  /-- `ERR_X` (R15). -/
  errX : BitVec 16
  /-- `ERR_Y` (R15). -/
  errY : BitVec 16
  /-- `ERR_INFO` (R16). -/
  errInfo : BitVec 32
  /-- `IMG_W.W` (R17). -/
  imgW : BitVec 16
  /-- `IMG_H.H` (R17). -/
  imgH : BitVec 16
  /-- `KSIZE_DEFAULT.KSD` (R17). -/
  ksizeDefault : BitVec 8
  /-- The working registers (R18 to R26). -/
  work : Work
  /-- `IMEM` (R41): the bytes written. -/
  imem : List Host.Cell
  /-- `OMEM` (R42): the bytes with a specified value. -/
  omem : List Host.Cell
  /-- `KMEM` (R43): the halfwords written. -/
  kmem : List (Nat × Half)
  /-- Whether `OMEM` holds a valid result (R29). -/
  omemValid : Bool
  /-- An exchange is in progress on `GEN`: the Area record is sent, the answer is not in (R44). -/
  genOpen : Bool
  /-- The Area records sent on `GEN`, oldest first (R72, R108). -/
  genOut : List (List Half)
  /-- The generator's answers still to come, one for each exchange (R109, U5; log 8). -/
  genIn : List (List Half)
  /-- The events still to happen; when there is none the engine moves (log 7). -/
  inbox : List Event
  /-- What the last host read returned, zero-extended (R45). -/
  rdata : RegWord
  /-- How many free values have been drawn. The model's own (log 6). -/
  fresh : Nat
deriving DecidableEq, Repr

/-- The machine right after reset (R28). The working registers, the memories' contents and the
model's own fields are the model's choice (logs 1, 3, 4, 6). -/
def State.reset : State where
  mode := .idle
  phase := 0
  errCode := .none
  errX := 0
  errY := 0
  errInfo := 0
  imgW := 0
  imgH := 0
  ksizeDefault := Config.ksizeDefaultReset
  work := Work.reset
  imem := []
  omem := []
  kmem := []
  omemValid := false
  genOpen := false
  genOut := []
  genIn := []
  inbox := []
  rdata := 0
  fresh := 0

/-- What a step of this machine answers. -/
abbrev Answer := Host.Outcome State Fault Refusal

end Sys2Proof.Machine
end

