-- ==== Sys2Proof/Machine/Ops.lean ====
section
/-! DEFINITION. The named operations the meanings are built of: access to a memory of any unit
(20_memory.md), entry into state `ERROR` (60_exceptions.md R160) and the return from it
(45_sequencer_commands.md R139), the loss of the output (R52), completion (R145). -/

namespace Sys2Proof.Machine

/-! ### A memory: the written units, by rising address -/

/-- The canonical form: addresses strictly rising. An unlisted address has no value of its own, so no
entry can equal it. -/
abbrev Memory.wf {w : Nat} (m : List (Nat × BitVec w)) : Prop :=
  m.Pairwise fun p q => p.1 < q.1

/-- The unit stored at an address, if one was. -/
def Memory.get {w : Nat} : List (Nat × BitVec w) → Nat → Option (BitVec w)
  | [], _ => none
  | (b, v) :: rest, a => if a = b then some v else Memory.get rest a

/-- Store a unit, keeping the canonical form. -/
def Memory.set {w : Nat} : List (Nat × BitVec w) → Nat → BitVec w → List (Nat × BitVec w)
  | [], a, v => [(a, v)]
  | (b, u) :: rest, a, v =>
    if a < b then (a, v) :: (b, u) :: rest
    else if a = b then (a, v) :: rest
    else (b, u) :: Memory.set rest a v

/-- The byte `IMEM` holds: the one last written, else whatever was there at power-up (R28, U15;
log 3). -/
def imemByte (m : List Host.Cell) (a : Nat) : Byte := (Memory.get m a).getD (Config.imemPowerUp a)

/-- The halfword `KMEM` holds, likewise (log 3). -/
def kmemHalf (m : List (Nat × Half)) (a : Nat) : Half :=
  (Memory.get m a).getD (Config.kmemPowerUp a)

/-- The store of one pixel: R at `off`, G at `off+1`, B at `off+2`, A at `off+3`
(44_output_writer.md R131). -/
def storePixel (m : List Host.Cell) (off : Nat) (p : Sample) : List Host.Cell :=
  Memory.set (Memory.set (Memory.set (Memory.set m off p.r) (off + 1) p.g) (off + 2) p.b)
    (off + 3) p.a

/-! ### The end of a command -/

/-- The working registers become undefined (R27): free values from here on (log 2). -/
def dropWork (s : State) : State :=
  { s with work := Config.freeWork s.fresh, fresh := s.fresh + 1 }

/-- The contents of `OMEM` become unspecified and the output is not valid (20_memory.md R52,
10_state.md R29; log 4). -/
def dropOutput (s : State) : State := { s with omem := [], omemValid := false }

/-- `raise E(x, y, info)`: error entry, as one change (60_exceptions.md R160). -/
def raise (e : ErrCode) (x y : BitVec 16) (info : RegWord) (s : State) : State :=
  dropWork { s with
    errCode := e
    errX := x
    errY := y
    errInfo := info
    mode := .error
    phase := 0 }

/-- `raise` by an operation of a pass: at the coordinate of the pass, whose output is lost (R160,
R162). -/
def raiseInPass (e : ErrCode) (info : RegWord) (s : State) : State :=
  raise e s.work.curX s.work.curY info (dropOutput s)

/-- The completion record is cleared and the state is `IDLE`: the return from an error (R139, R163),
and step 1 of `CONVOLVE` (R138, R140). -/
def clearRecord (s : State) : State :=
  { s with
    mode := .idle
    errCode := .none
    errX := 0
    errY := 0
    errInfo := 0 }

/-- Completion (R145): `BUSY` moves to `DONE`, the phase is `IDLE`, the output is valid (R29). -/
def complete (s : State) : State :=
  dropWork { s with
    mode := .done
    phase := 0
    omemValid := true }

/-- An operation of the sequencer or a cell form, which only a running pass performs: nothing happens
while `BUSY = 0` (R19, R150). DESIGN CHOICE (log 11): `step` never selects one then. -/
def whenBusy (s : State) (answer : Answer) : Answer :=
  if s.mode = .busy then answer else .next s

end Sys2Proof.Machine
end

