-- ==== Sys2Proof/Machine/Flags.lean ====
section
/-! DEFINITION. The words the host reads as status: `STATUS` (10_state.md R12), `ERR_CODE`
(30_encoding.md R73), the layouts of `ERR_INFO` (R74), and the zero test of the kernel sums
(43_accumulator_normalizer.md R121). -/

namespace Sys2Proof.Machine

/-- `STATUS` (R12): `BUSY` bit 0, `DONE` bit 1, `ERROR` bit 2, `PHASE` bits 6:4, the rest 0. -/
def statusWord (m : Mode) (phase : BitVec 3) : RegWord :=
  0#25 ++ phase ++ 0#1 ++ BitVec.ofBool (m == .error) ++ BitVec.ofBool (m == .done)
    ++ BitVec.ofBool (m == .busy)

/-- The phase code a read of `STATUS` returns while `BUSY = 1`: an unspecified one of 1 to 7 (R12,
R19, U7; log 5). -/
def unspecifiedPhase (n : Nat) : BitVec 3 := BitVec.ofNat 3 ((Config.freePhase n).val + 1)

/-- `ERR_CODE` values (R73). -/
def errCodeBits : ErrCode → BitVec 3
  | .none => 0
  | .invalidSource => 1
  | .kernelShape => 2
  | .degenerateKernel => 3
  | .configuration => 4

/-- `ERR_INFO` of code 1: the tag in 3:0, `W = 0` in bit 8, `H = 0` in bit 9 (R74, R156). -/
def sourceInfo (tag : BitVec 4) (wZero hZero : Bool) : RegWord :=
  0#22 ++ BitVec.ofBool hZero ++ BitVec.ofBool wZero ++ 0#4 ++ tag

/-- `ERR_INFO` of code 2: the counts `cols`, `rows`, `kcols`, `krows` from the top byte down (R74,
R157). -/
def shapeInfo (rows cols krows kcols : BitVec 8) : RegWord := cols ++ rows ++ kcols ++ krows

/-- The three zero tests `z`, bit 0 the test of the r lane (R121). -/
def zeroLanes (k : Lanes) : BitVec 3 :=
  BitVec.ofBool (k.b == 0) ++ BitVec.ofBool (k.g == 0) ++ BitVec.ofBool (k.r == 0)

/-- `ERR_INFO` of code 3: the three tests, zero-extended (R74, R121, R158). -/
def degenerateInfo (k : Lanes) : RegWord := (zeroLanes k).setWidth 32

/-- `ERR_INFO` of code 4: the sub-code in 7:0, the cell index in 31:16 (R74, R159). -/
def configInfo (sub : BitVec 8) (cell : BitVec 16) : RegWord := cell ++ 0#8 ++ sub

end Sys2Proof.Machine
end

