-- ==== Sys2Proof/Machine/Operands.lean ====
section
/-! DEFINITION. Every way an operation comes by its operands, and the arithmetic on them: the
conversions of 00_scope.md R6, the primitives `OFFSET`, `GETPIXEL` and `MKPIXEL`
(40_pixel_primitives.md), the clamped box (41), the size and the kernel record (42), the sums and
quotients (43), the stored channel (44) and the scan advance (45). -/

namespace Sys2Proof.Machine

/-! ### Conversions (R6) -/

/-- `tdiv(a, b) = trunc(a / b)`, for `b` not 0 (R6, R124). -/
def tdiv (a b : Int) : Int := Int.tdiv a b

/-- `clamp8(v) = max(0, min(255, v))` (R6), as the byte it is (R130). -/
def clamp8 (v : Int) : Byte := BitVec.ofInt 8 (max 0 (min 255 v))

/-! ### Pixel construction (R81 to R85) -/

/-- `PIXEL0`: `(0, 0, 0, 255)` (R81). -/
def pixel0Weight : Weight := ⟨0, 0, 0, 255⟩
/-- `SCALAR`: `(n, n, n, 255)` (R82). -/
def scalarWeight (n : Half) : Weight := ⟨n, n, n, 255⟩
/-- `PIXEL2`: `(n, n, n, a)` (R83). -/
def pixel2Weight (n a : Half) : Weight := ⟨n, n, n, a⟩
/-- `PIXEL3`: `(r, g, b, 255)` (R84). -/
def pixel3Weight (r g b : Half) : Weight := ⟨r, g, b, 255⟩
/-- `PIXEL4`: `(r, g, b, a)` (R85). -/
def pixel4Weight (r g b a : Half) : Weight := ⟨r, g, b, a⟩

/-- `MKPIXEL(tag, v0, v1, v2, v3)`, for every tag: one above 4 constructs nothing (R81 to R85). -/
def mkPixel (tag v0 v1 v2 v3 : Half) : Option Weight :=
  match tag.toNat with
  | 0 => some (pixel0Weight)
  | 1 => some (scalarWeight v0)
  | 2 => some (pixel2Weight v0 v1)
  | 3 => some (pixel3Weight v0 v1 v2)
  | 4 => some (pixel4Weight v0 v1 v2 v3)
  | _ => none

/-! ### Addresses and samples (R86, R87) -/

/-- `OFFSET(W, x, y) = (y*W + x)*4`, for a coordinate inside the image; there is no offset for one
outside (R86; U1). -/
def offset (W H x y : Nat) : Option Nat :=
  if x < W ∧ y < H then some ((y * W + x) * 4) else none

/-- `GETPIXEL(W, x, y)`: four bytes of `IMEM`, lowest address first (R87). -/
def getPixel (imem : List Host.Cell) (W H x y : Nat) : Option Sample :=
  match offset W H x y with
  | none => none
  | some off =>
    some ⟨imemByte imem off, imemByte imem (off + 1), imemByte imem (off + 2),
      imemByte imem (off + 3)⟩

/-! ### The clamped box and its samples (R96, R97) -/

/-- The Area's bounding box (R21). -/
structure Box where
  left : Nat
  top : Nat
  right : Nat
  bottom : Nat
deriving DecidableEq, Repr

/-- `COLLECT`, part 1 (R96). Subtraction of natural numbers stops at 0: it is `max(0, c - half)`. -/
def areaBox (W H half cx cy : Nat) : Box where
  left := cx - half
  top := cy - half
  right := min (W - 1) (cx + half)
  bottom := min (H - 1) (cy + half)

/-- `rows = bottom - top + 1` (R96). -/
def boxRows (b : Box) : Nat := b.bottom - b.top + 1

/-- `cols = right - left + 1` (R96). -/
def boxCols (b : Box) : Nat := b.right - b.left + 1

/-- The coordinates of the window, row-major top-to-bottom (R97). -/
def boxCoords (b : Box) : List (Nat × Nat) :=
  (List.range (boxRows b)).flatMap fun i =>
    (List.range (boxCols b)).map fun j => (b.left + j, b.top + i)

/-- `COLLECT`, part 2: `win[i][j]` is `GETPIXEL(W, left + j, top + i)` (R97). -/
def sampleWindow (imem : List Host.Cell) (W H : Nat) (b : Box) : Option (List Sample) :=
  (boxCoords b).mapM fun c => getPixel imem W H c.1 c.2

/-! ### The kernel: size, record, cells (R105 to R110) -/

/-- Size resolution (R105), before its check against 0. -/
def resolveSize (ksrc : KernelSource) (sizeValid : Bool) (size : BitVec 8) (s : State) : BitVec 8 :=
  if sizeValid then size
  else match ksrc with
    | .static => headerRows (kmemHalf s.kmem 0)
    | .generator => s.ksizeDefault

/-- `half = size[7:1]` (R63, R105). -/
def halfOfSize (size : BitVec 8) : BitVec 7 := size.extractLsb' 1 7

/-- The four beats of a pixel: `zext_16` of R, G, B, A (R72). -/
def pixelBeats (p : Sample) : List Half :=
  [p.r.setWidth 16, p.g.setWidth 16, p.b.setWidth 16, p.a.setWidth 16]

/-- The Area record the engine sends (R72). -/
def areaRecord (w : Work) : List Half :=
  [w.left, w.top, w.right, w.bottom, w.curX, w.curY] ++ w.win.flatMap pixelBeats

/-- What one exchange takes of the generator's answer (R109): the header, and the cells only if the
header's shape is the Area's. `none` while the answer is not complete (R113). Anything the generator
sends beyond is discarded (log 8). -/
def takeAnswer (rows cols : BitVec 8) : List Half → Option (Half × List Half)
  | [] => none
  | h :: cells =>
    if headerRows h = rows ∧ headerCols h = cols then
      if 5 * (rows.toNat * cols.toNat) ≤ cells.length then
        some (h, cells.take (5 * (rows.toNat * cols.toNat)))
      else none
    else some (h, [])

/-- Halfword `i` of the kernel record of the coordinate the working registers are at: in `KMEM`
(R107), or as taken from the generator (R109). -/
def recordOf (kmem : List (Nat × Half)) (w : Work) (i : Nat) : Option Half :=
  match w.latKsrc with
  | .static => some (kmemHalf kmem i)
  | .generator => w.krec[i]?

/-- Halfword `i` of this coordinate's kernel record. -/
def recordHalf (s : State) (i : Nat) : Option Half := recordOf s.kmem s.work i

/-- The five halfwords of cell `k`, from index `1 + 5*k` (R68). -/
def cellCode (read : Nat → Option Half) (k : Nat) : Option Code :=
  match read (1 + 5 * k), read (2 + 5 * k), read (3 + 5 * k), read (4 + 5 * k),
    read (5 + 5 * k) with
  | some tag, some v0, some v1, some v2, some v3 => some (.kcell tag v0 v1 v2 v3)
  | _, _, _, _, _ => none

/-! ### Sums, quotients, stored channels (R120 to R130) -/

/-- One step of `KSUM`: `ksum_c + sext_48(ker[i][j].c)` (R120). -/
def ksumStep (acc : Lanes) (k : Weight) : Lanes :=
  ⟨acc.r + k.r.signExtend 48, acc.g + k.g.signExtend 48, acc.b + k.b.signExtend 48⟩

/-- The kernel-weight sums (R120). -/
def ksumOf (ker : List Weight) : Lanes := ker.foldl ksumStep ⟨0, 0, 0⟩

/-- The exact signed product of a sample channel and a weight channel, 25 bits (R122). -/
def product (p : Byte) (k : Half) : BitVec 25 := p.setWidth 25 * k.signExtend 25

/-- One step of `MAC`: `asum_c + sext_48(product)` (R122). -/
def macStep (acc : Lanes) (pk : Sample × Weight) : Lanes :=
  ⟨acc.r + (product pk.1.r pk.2.r).signExtend 48, acc.g + (product pk.1.g pk.2.g).signExtend 48,
    acc.b + (product pk.1.b pk.2.b).signExtend 48⟩

/-- The weighted sums (R122). -/
def asumOf (win : List Sample) (ker : List Weight) : Lanes := (win.zip ker).foldl macStep ⟨0, 0, 0⟩

/-- `q_c = tdiv(asum_c, ksum_c)` in 48 bits (R124). -/
def quotient (a k : BitVec 48) : BitVec 48 := BitVec.ofInt 48 (tdiv a.toInt k.toInt)

/-- `NORM`, each lane by its own sum (R124). -/
def quotOf (a k : Lanes) : Lanes := ⟨quotient a.r k.r, quotient a.g k.g, quotient a.b k.b⟩

/-- `WRITE`, part 1: the stored pixel, alpha 255 (R130). -/
def outPixel (q : Lanes) : Sample :=
  ⟨clamp8 q.r.toInt, clamp8 q.g.toInt, clamp8 q.b.toInt, Config.alphaOut⟩

/-! ### The scan (R144) -/

/-- `next((x, y))`; `none` at the end of the pass (R144). -/
def nextPos (W H x y : Nat) : Option (Nat × Nat) :=
  if x + 1 < W then some (x + 1, y)
  else if y + 1 < H then some (0, y + 1)
  else none

end Sys2Proof.Machine
end

