-- ==== Sys2Proof/Machine/HostCommands.lean ====
section
/-! DEFINITION. The host commands (45_sequencer_commands.md R137 to R142). While `BUSY = 1` a command
is dropped (R141). -/

namespace Sys2Proof.Machine

/-- `NOP` (R137): nothing, in every state. -/
def execNop (s : State) : Answer := .next s

/-- `CONVOLVE`, step 4: latch and start (R138, R20, R18). -/
def startPass (ksrc : KernelSource) (size : BitVec 8) (s : State) : State :=
  { s with
    mode := .busy
    phase := 0b001
    work := { s.work with
      latW := s.imgW
      latH := s.imgH
      latSize := size
      latHalf := halfOfSize size
      latKsrc := ksrc
      curX := 0
      curY := 0
      decoding := false } }

/-- `CONVOLVE`, steps 2 to 4: the source checks, the size, the start (R138, R105, R156, R159). -/
def acceptPass (srcTag : BitVec 4) (ksrc : KernelSource) (sizeValid : Bool) (size : BitVec 8)
    (s : State) : State :=
  if 1 < srcTag.toNat ∨ s.imgW = 0 ∨ s.imgH = 0 then
    raise .invalidSource 0 0 (sourceInfo srcTag (s.imgW == 0) (s.imgH == 0)) s
  else if resolveSize ksrc sizeValid size s = 0 then
    raise .configuration 0 0 (configInfo 2 0) s
  else startPass ksrc (resolveSize ksrc sizeValid size s) s

/-- `CONVOLVE` (R138, R140): step 1 discards the old completion record and the output. -/
def execConvolve (srcTag : BitVec 4) (ksrc : KernelSource) (sizeValid : Bool) (size : BitVec 8)
    (s : State) : Answer :=
  if s.mode = .busy then .next s
  else .next (acceptPass srcTag ksrc sizeValid size (dropOutput (clearRecord s)))

/-- `ACK` (R139): in `IDLE` it does nothing. -/
def execAck (s : State) : Answer :=
  match s.mode with
  | .idle => .next s
  | .busy => .next s
  | .done => .next (clearRecord s)
  | .error => .next (clearRecord s)

/-- An illegal command word in a state other than `BUSY` (R142, R66): the old record is discarded,
`OMEM` is left as it was. -/
def illegalCommand (s : State) : State :=
  raise .configuration 0 0 (configInfo 1 0) (clearRecord s)

end Sys2Proof.Machine
end

