-- ==== Sys2Proof/Machine/KernelCells.lean ====
section
/-! DEFINITION. The kernel-cell constructor forms (40_pixel_primitives.md R81 to R85), each the
decoding of one cell in `KCHECK`'s loop (42_kernel_resolution.md R110, R111): it writes `ker[i][j]`
for the next cell index and, at the last cell, ends `KCHECK`. -/

namespace Sys2Proof.Machine

/-- `ker[floor(k / cols)][k mod cols] <- p` for the next `k`, and the loop's end at
`k = rows*cols - 1` (R110). -/
def putCell (p : Weight) (s : State) : State :=
  if s.work.ker.length + 1 < s.work.rows.toNat * s.work.cols.toNat then
    { s with work := { s.work with ker := s.work.ker ++ [p] } }
  else
    { s with
      phase := 0b100
      work := { s.work with ker := s.work.ker ++ [p], decoding := false } }

/-- `PIXEL0` (R81). -/
def execPixel0 (s : State) : Answer := whenBusy s (.next (putCell pixel0Weight s))

/-- `SCALAR` (R82). -/
def execScalar (n : Half) (s : State) : Answer := whenBusy s (.next (putCell (scalarWeight n) s))

/-- `PIXEL2` (R83). -/
def execPixel2 (n a : Half) (s : State) : Answer :=
  whenBusy s (.next (putCell (pixel2Weight n a) s))

/-- `PIXEL3` (R84). -/
def execPixel3 (r g b : Half) (s : State) : Answer :=
  whenBusy s (.next (putCell (pixel3Weight r g b) s))

/-- `PIXEL4` (R85). -/
def execPixel4 (r g b a : Half) (s : State) : Answer :=
  whenBusy s (.next (putCell (pixel4Weight r g b a) s))

/-- A reserved tag at the next cell (R71, R110): `ConfigurationError` sub-code 3 with the coordinate
and the cell index. -/
def reservedCell (s : State) : State :=
  raiseInPass .configuration (configInfo 3 (BitVec.ofNat 16 s.work.ker.length)) s

end Sys2Proof.Machine
end

