-- ==== Sys2Proof/Machine/Sequencer.lean ====
section
/-! DEFINITION. The sequencer operations, in the order a coordinate performs them
(45_sequencer_commands.md R143). Each ends by moving the phase to the next operation. -/

namespace Sys2Proof.Machine

/-- `IDLE` (R150): no pass is running, nothing happens. -/
def execIdle (s : State) : Answer := .next s

/-- `COLLECT` on the working registers (R96, R97); `none` at a coordinate outside the image (U1). -/
def collectWork (imem : List Host.Cell) (w : Work) : Option Work :=
  if w.curX.toNat < w.latW.toNat ∧ w.curY.toNat < w.latH.toNat then
    let b := areaBox w.latW.toNat w.latH.toNat w.latHalf.toNat w.curX.toNat w.curY.toNat
    match sampleWindow imem w.latW.toNat w.latH.toNat b with
    | none => none
    | some px => some { w with
        left := BitVec.ofNat 16 b.left
        top := BitVec.ofNat 16 b.top
        right := BitVec.ofNat 16 b.right
        bottom := BitVec.ofNat 16 b.bottom
        rows := BitVec.ofNat 8 (boxRows b)
        cols := BitVec.ofNat 8 (boxCols b)
        win := px }
  else none

/-- `COLLECT` (R96, R97). -/
def execCollect (s : State) : Answer :=
  whenBusy s (match collectWork s.imem s.work with
    | none => .fault .outsideImage
    | some w => .next { s with work := w, phase := 0b010 })

/-- The kernel header comes in: `krows`, `kcols` (R106, R22); the record itself is kept when it came
from the generator. -/
def takeHeader (h : Half) (rec : List Half) (s : State) : State :=
  { s with
    phase := 0b011
    work := { s.work with krows := headerRows h, kcols := headerCols h, krec := rec } }

/-- The sending half of an exchange (R109): the Area record leaves once for each exchange (R108). -/
def sendArea (s : State) : State :=
  if s.genOpen then s
  else { s with genOpen := true, genOut := s.genOut ++ [areaRecord s.work] }

/-- The receiving half: the exchange ends when its answer is complete, and waits until then (R109,
R113; U6). -/
def receiveRecord (s : State) : State :=
  match s.genIn with
  | [] => s
  | answer :: later =>
    match takeAnswer s.work.rows s.work.cols answer with
    | none => s
    | some (h, cells) => takeHeader h (h :: cells) { s with genOpen := false, genIn := later }

/-- `KRESOLVE` (R106): the static record's header (R107), or one exchange with the generator (R108,
R109). -/
def execKresolve (s : State) : Answer :=
  whenBusy s (match s.work.latKsrc with
    | .static => .next (takeHeader (kmemHalf s.kmem 0) [] s)
    | .generator => .next (receiveRecord (sendArea s)))

/-- `KCHECK`, the shape check, and the start of its loop over the cells (R110). The cells follow as
operations of their own, in increasing `k`, in the same phase (log 10). -/
def execKcheck (s : State) : Answer :=
  whenBusy s (
    if s.work.krows ≠ s.work.rows ∨ s.work.kcols ≠ s.work.cols then
      .next (raiseInPass .kernelShape
        (shapeInfo s.work.rows s.work.cols s.work.krows s.work.kcols) s)
    else .next { s with work := { s.work with ker := [], decoding := true } })

/-- `KSUM` (R120) and its check for a degenerate kernel (R121). -/
def execKsum (s : State) : Answer :=
  whenBusy s (
    if zeroLanes (ksumOf s.work.ker) ≠ 0 then
      .next (raiseInPass .degenerateKernel (degenerateInfo (ksumOf s.work.ker)) s)
    else .next { s with phase := 0b101, work := { s.work with ksum := ksumOf s.work.ker } })

/-- `MAC` (R122). -/
def execMac (s : State) : Answer :=
  whenBusy s (.next { s with
    phase := 0b110
    work := { s.work with asum := asumOf s.work.win s.work.ker } })

/-- `NORM` (R124). The zero divisor was excluded by `KSUM` (R121); should one be there all the same,
the machine takes the stated error before any division (U2; log 12). -/
def execNorm (s : State) : Answer :=
  whenBusy s (
    if zeroLanes s.work.ksum ≠ 0 then
      .next (raiseInPass .degenerateKernel (degenerateInfo s.work.ksum) s)
    else .next { s with
      phase := 0b111
      work := { s.work with quot := quotOf s.work.asum s.work.ksum } })

/-- The end of `WRITE` (R144, R145): the next coordinate, or completion. -/
def advance (s : State) : State :=
  match nextPos s.work.latW.toNat s.work.latH.toNat s.work.curX.toNat s.work.curY.toNat with
  | some (x, y) => { s with
      phase := 0b001
      work := { s.work with curX := BitVec.ofNat 16 x, curY := BitVec.ofNat 16 y } }
  | none => complete s

/-- `WRITE` (R130, R131): conversion, store, scan advance. -/
def execWrite (s : State) : Answer :=
  whenBusy s (
    match offset s.work.latW.toNat s.work.latH.toNat s.work.curX.toNat s.work.curY.toNat with
    | none => .fault .outsideImage
    | some off => .next (advance { s with omem := storePixel s.omem off (outPixel s.work.quot) }))

end Sys2Proof.Machine
end

