-- ==== Sys2Proof/Machine/Dispatch.lean ====
section
/-! DEFINITION. The one match from an operation to its meaning. -/

namespace Sys2Proof.Machine

def exec (i : Instr) (s : State) : Host.Outcome State Fault Refusal :=
  match i with
  | .nop => Sys2Proof.Machine.execNop s
  | .convolve srcTag ksrc sizeValid size => Sys2Proof.Machine.execConvolve srcTag ksrc sizeValid size s
  | .ack => Sys2Proof.Machine.execAck s
  | .pixel0 => Sys2Proof.Machine.execPixel0 s
  | .scalar n => Sys2Proof.Machine.execScalar n s
  | .pixel2 n a => Sys2Proof.Machine.execPixel2 n a s
  | .pixel3 r g b => Sys2Proof.Machine.execPixel3 r g b s
  | .pixel4 r g b a => Sys2Proof.Machine.execPixel4 r g b a s
  | .idle => Sys2Proof.Machine.execIdle s
  | .collect => Sys2Proof.Machine.execCollect s
  | .kresolve => Sys2Proof.Machine.execKresolve s
  | .kcheck => Sys2Proof.Machine.execKcheck s
  | .ksum => Sys2Proof.Machine.execKsum s
  | .mac => Sys2Proof.Machine.execMac s
  | .norm => Sys2Proof.Machine.execNorm s
  | .write => Sys2Proof.Machine.execWrite s

end Sys2Proof.Machine
end

