-- ==== Sys2Proof/Machine/HostPort.lean ====
section
/-! DEFINITION. What the host's moves do other than a command: register access (10_state.md R11 to
R17, 20_memory.md R45), memory access (R40), and the reset input (70_reset_and_hazards.md R175,
R177). -/

namespace Sys2Proof.Machine

/-- A read of the `REG` word at byte offset `off`, in a state whose `STATUS.PHASE` shows `phase`: the
registers of R11, 0 for `CMD` (R13) and for every other offset (R11). -/
def regValue (off : Nat) (phase : BitVec 3) (s : State) : RegWord :=
  if off = 0x04 then statusWord s.mode phase
  else if off = 0x08 then (errCodeBits s.errCode).setWidth 32
  else if off = 0x0C then s.errX.setWidth 32
  else if off = 0x10 then s.errY.setWidth 32
  else if off = 0x14 then s.errInfo
  else if off = 0x18 then s.imgW.setWidth 32
  else if off = 0x1C then s.imgH.setWidth 32
  else if off = 0x20 then s.ksizeDefault.setWidth 32
  else 0

/-- A host read of `REG`. A read of `STATUS` while `BUSY = 1` draws an unspecified phase (R12, R19);
while `BUSY = 0` the phase reads 0 (R12). -/
def regRead (off : Nat) (s : State) : State :=
  if s.mode = .busy then
    { s with rdata := regValue off (unspecifiedPhase s.fresh) s, fresh := s.fresh + 1 }
  else { s with rdata := regValue off 0 s }

/-- A host write to a register other than `CMD` (R11, R17): bits above the field are ignored, and so
is a write to a read-only register (log 16) or to an offset outside the map. -/
def regStore (off : Nat) (v : RegWord) (s : State) : State :=
  if off = 0x18 then { s with imgW := v.extractLsb' 0 16 }
  else if off = 0x1C then { s with imgH := v.extractLsb' 0 16 }
  else if off = 0x20 then { s with ksizeDefault := v.extractLsb' 0 8 }
  else s

/-- A host move on `IMEM` or `KMEM`: refused while `BUSY = 1` (R40, R51; U4; log 14), a fault beyond
the space (R40; log 17). -/
def inputAccess (size addr : Nat) (s after : State) : Answer :=
  if s.mode = .busy then .refused .inputAccessWhileBusy
  else if size ≤ addr then .fault .noSuchAddress
  else .next after

/-- A host write of a byte of `IMEM`. -/
def imemWrite (addr : Nat) (v : Byte) (s : State) : Answer :=
  inputAccess Config.imageBytes addr s { s with imem := Memory.set s.imem addr v }

/-- A host read of a byte of `IMEM`. -/
def imemRead (addr : Nat) (s : State) : Answer :=
  inputAccess Config.imageBytes addr s { s with rdata := (imemByte s.imem addr).setWidth 32 }

/-- A host write of a halfword of `KMEM`. -/
def kmemWrite (addr : Nat) (v : Half) (s : State) : Answer :=
  inputAccess Config.kmemHalves addr s { s with kmem := Memory.set s.kmem addr v }

/-- A host read of a halfword of `KMEM`. -/
def kmemRead (addr : Nat) (s : State) : Answer :=
  inputAccess Config.kmemHalves addr s { s with rdata := (kmemHalf s.kmem addr).setWidth 32 }

/-- The byte of `OMEM` that has a specified value at this address, if one has: only while the output
is valid (R29, R52). -/
def outputByte (s : State) (addr : Nat) : Option Byte :=
  if s.omemValid then Memory.get s.omem addr else none

/-- A host read of a byte of `OMEM`: the pass's result, or an unspecified byte (R40, R52; U3;
log 4). -/
def omemRead (addr : Nat) (s : State) : Answer :=
  if Config.imageBytes ≤ addr then .fault .noSuchAddress
  else match outputByte s addr with
    | some v => .next { s with rdata := v.setWidth 32 }
    | none => .next { s with
        rdata := (Config.freeByte s.fresh).setWidth 32
        fresh := s.fresh + 1 }

/-- The reset input, in any state (R175, R177): registers as R28, the working registers as at reset,
`IMEM` and `KMEM` not written (log 18), the output not valid, an exchange in progress dropped with
its answer; the outside world is not reset. -/
def resetMachine (s : State) : State :=
  { State.reset with
    imem := s.imem
    kmem := s.kmem
    genOut := s.genOut
    genIn := if s.genOpen then s.genIn.tail else s.genIn
    inbox := s.inbox
    rdata := s.rdata
    fresh := s.fresh }

end Sys2Proof.Machine
end

