-- ==== Sys2Proof/Machine/Fetch.lean ====
section
/-! DEFINITION. Which operation comes next (log 7, log 19). The next event says whose move it is; a
command word comes from a host write to `CMD` (R13), a phase code from the phase register (R19), a
cell from the record at the next cell index (R110). Each goes through the decoder, and what the
decoder rejects takes the error the spec names. -/

namespace Sys2Proof.Machine

/-- What a step is to do: perform an operation, or nothing more than the outcome given. -/
inductive Plan
  | run (i : Instr) (s : State)
  | settle (o : Answer)
deriving Repr

/-- A command word arrives (R13): dropped undecoded while `BUSY = 1` (R141). -/
def commandTurn (w : RegWord) (s : State) : Plan :=
  if s.mode = .busy then .settle (.next s)
  else match decode (.cmd w) with
    | .ok i => .run i s
    | .reject _ => .settle (.next (illegalCommand s))

/-- The next cell of `KCHECK`'s loop (R110). -/
def cellTurn (s : State) : Plan :=
  match cellCode (recordHalf s) s.work.ker.length with
  | none => .settle (.fault .recordTooShort)
  | some c => match decode c with
    | .ok i => .run i s
    | .reject _ => .settle (.next (reservedCell s))

/-- `KCHECK` is at its loop over the cells (R110). -/
def atCell (s : State) : Bool := s.phase == 0b011 && s.work.decoding

/-- The engine's next operation: the phase's, or the next cell's; `IDLE` while `BUSY = 0` (R19). -/
def engineTurn (s : State) : Plan :=
  if s.mode = .busy then
    if atCell s then cellTurn s else .run (decodeSeq s.phase) s
  else .run .idle s

/-- A host write to `REG` (R45): aligned (U9; log 15), to `CMD` a command, else a plain store. -/
def regWriteTurn (off : Nat) (v : RegWord) (s : State) : Plan :=
  if off % 4 ≠ 0 then .settle (.refused .unalignedRegister)
  else if off = 0x00 then commandTurn v s
  else .settle (.next (regStore off v s))

/-- One event. -/
def eventTurn (e : Event) (s : State) : Plan :=
  match e with
  | .engine => engineTurn s
  | .regWrite off v => regWriteTurn off v s
  | .regRead off =>
    if off % 4 ≠ 0 then .settle (.refused .unalignedRegister) else .settle (.next (regRead off s))
  | .imemWrite a v => .settle (imemWrite a v s)
  | .imemRead a => .settle (imemRead a s)
  | .kmemWrite a v => .settle (kmemWrite a v s)
  | .kmemRead a => .settle (kmemRead a s)
  | .omemRead a => .settle (omemRead a s)
  | .reset => .settle (.next (resetMachine s))

/-- What the next step does. -/
def plan (s : State) : Plan :=
  match s.inbox with
  | [] => engineTurn s
  | e :: later => eventTurn e { s with inbox := later }

/-- Leave the pass, if one is running, so that a command word would be decoded (log 19). -/
def standDown (s : State) : State :=
  if s.mode = .busy then { s with mode := .idle, phase := 0, genOpen := false } else s

/-- `s` with these bits where the next step fetches (log 19): a command word as the host's next write
to `CMD`, a phase code in the phase register, a cell in `KMEM` at the next cell index, the engine
moving next. -/
def placeCode (c : Code) (s : State) : State :=
  match c with
  | .cmd w =>
    { standDown s with inbox := .regWrite 0x00 w :: s.inbox }
  | .seq p =>
    if p = 0 then { standDown s with inbox := .engine :: s.inbox }
    else { s with
      mode := .busy
      phase := p
      work := { s.work with decoding := false }
      inbox := .engine :: s.inbox }
  | .kcell tag v0 v1 v2 v3 =>
    let k := s.work.ker.length
    { s with
      mode := .busy
      phase := 0b011
      work := { s.work with decoding := true, latKsrc := .static }
      kmem := Memory.set (Memory.set (Memory.set (Memory.set (Memory.set s.kmem (1 + 5 * k) tag)
        (2 + 5 * k) v0) (3 + 5 * k) v1) (4 + 5 * k) v2) (5 + 5 * k) v3
      inbox := .engine :: s.inbox }

end Sys2Proof.Machine
end

