-- ==== Sys2Proof/Machine/Step.lean ====
section
/-! DEFINITION. One step: the next event's operation, performed (log 7). -/

namespace Sys2Proof.Machine

/-- One step of the system. -/
def step (s : State) : Host.Outcome State Fault Refusal :=
  match plan s with
  | .run i t => exec i t
  | .settle o => o

/-- `s` with an opcode-table row's bits stored where `step` fetches its next operation. -/
def State.withFetchWord (s : State) (nbits w : Nat) : State :=
  match codeOfTable nbits w with
  | none => s
  | some c => placeCode c s

end Sys2Proof.Machine
end

