-- ==== Sys2Proof/Machine/ConvPixel.lean ====
section
/-! DEFINITION. `ConvPixel(x, y)`, one output coordinate as one function (45_sequencer_commands.md
R143), and a whole pass in big-step form (R146). The machine does not use them: they are what its
steps are held against. -/

namespace Sys2Proof.Machine

/-- A kernel source: from the Area record to the halfwords of a kernel record (R146). -/
abbrev KernelFn := List Half → Nat → Option Half

/-- The static record as a constant function (R107, R146). -/
def staticKernel (kmem : List (Nat × Half)) : KernelFn := fun _ i => some (kmemHalf kmem i)

/-- A generator that is a function (R109, R146). -/
def generatorKernel (gen : List Half → List Half) : KernelFn := fun area i => (gen area)[i]?

/-- What `ConvPixel` comes to. -/
inductive PixelOutcome
  /-- The pixel it stores. -/
  | stored (p : Sample)
  /-- The error it raises, with its `ERR_INFO`. -/
  | raised (e : ErrCode) (info : RegWord)
  /-- The kernel source gives no whole record (R113). -/
  | unanswered
  /-- The coordinate is outside the image (U1). -/
  | outside
deriving DecidableEq, Repr

/-- The cells from index `k` on, `n` of them, expanded; or the index of the first reserved tag
(R110). -/
inductive CellsOutcome
  | kernel (ker : List Weight)
  | reserved (k : Nat)
  | short
deriving DecidableEq, Repr

/-- `p` in front of a kernel. -/
def consCell (p : Weight) : CellsOutcome → CellsOutcome
  | .kernel ker => .kernel (p :: ker)
  | .reserved k => .reserved k
  | .short => .short

/-- `KCHECK`'s loop as one function (R110). -/
def expandCells (read : Nat → Option Half) (k : Nat) : Nat → CellsOutcome
  | 0 => .kernel []
  | n + 1 =>
    match cellCode read k with
    | some (.kcell tag v0 v1 v2 v3) =>
      match mkPixel tag v0 v1 v2 v3 with
      | none => .reserved k
      | some p => consCell p (expandCells read (k + 1) n)
    | _ => .short

/-- `KSUM`, `MAC`, `NORM` and the conversion of `WRITE`, on a window and a kernel (R143). -/
def filterPixel (win : List Sample) (ker : List Weight) : PixelOutcome :=
  if zeroLanes (ksumOf ker) ≠ 0 then
    .raised .degenerateKernel (degenerateInfo (ksumOf ker))
  else .stored (outPixel (quotOf (asumOf win ker) (ksumOf ker)))

/-- `KCHECK` and what follows, given the kernel source's answer (R143). -/
def checkedPixel (rows cols : Nat) (win : List Sample) (read : Nat → Option Half) : PixelOutcome :=
  match read 0 with
  | none => .unanswered
  | some h =>
    if (headerRows h).toNat ≠ rows ∨ (headerCols h).toNat ≠ cols then
      .raised .kernelShape
        (shapeInfo (BitVec.ofNat 8 rows) (BitVec.ofNat 8 cols) (headerRows h) (headerCols h))
    else if (read (5 * (rows * cols))).isNone then .unanswered
    else match expandCells read 0 (rows * cols) with
      | .short => .unanswered
      | .reserved k => .raised .configuration (configInfo 3 (BitVec.ofNat 16 k))
      | .kernel ker => filterPixel win ker

/-- The Area record of a box, a centre and a window (R72). -/
def boxRecord (b : Box) (cx cy : Nat) (win : List Sample) : List Half :=
  [BitVec.ofNat 16 b.left, BitVec.ofNat 16 b.top, BitVec.ofNat 16 b.right,
    BitVec.ofNat 16 b.bottom, BitVec.ofNat 16 cx, BitVec.ofNat 16 cy] ++ win.flatMap pixelBeats

/-- `ConvPixel(x, y)` (R143): it reads only `IMEM`, the latched configuration and the kernel
source. -/
def convPixel (imem : List Host.Cell) (W H half : Nat) (ksrc : KernelFn) (x y : Nat) :
    PixelOutcome :=
  if x < W ∧ y < H then
    let b := areaBox W H half x y
    match sampleWindow imem W H b with
    | none => .outside
    | some win => checkedPixel (boxRows b) (boxCols b) win (ksrc (boxRecord b x y win))
  else .outside

/-- The output coordinates in raster order (R144). -/
def rasterCoords (W H : Nat) : List (Nat × Nat) :=
  (List.range H).flatMap fun y => (List.range W).map fun x => (x, y)

/-- What a whole pass comes to (R146). -/
inductive PassOutcome
  /-- `DONE`, with the pixels in raster order. -/
  | done (pixels : List Sample)
  /-- `ERROR`, at the first coordinate in raster order that raises. -/
  | error (e : ErrCode) (x y : Nat) (info : RegWord)
  /-- The kernel source does not answer: the pass never ends (R113). -/
  | waiting
deriving DecidableEq, Repr

/-- `p` in front of the pixels of a pass. -/
def consPixel (p : Sample) : PassOutcome → PassOutcome
  | .done ps => .done (p :: ps)
  | .error e x y info => .error e x y info
  | .waiting => .waiting

/-- A pass over coordinates in order: the first failure decides (R146, R161). -/
def passOver (f : Nat → Nat → PixelOutcome) : List (Nat × Nat) → PassOutcome
  | [] => .done []
  | (x, y) :: rest =>
    match f x y with
    | .stored p => consPixel p (passOver f rest)
    | .raised e info => .error e x y info
    | .unanswered => .waiting
    | .outside => .waiting

/-- The meaning of a whole pass (R146). -/
def wholePass (imem : List Host.Cell) (W H half : Nat) (ksrc : KernelFn) : PassOutcome :=
  passOver (convPixel imem W H half ksrc) (rasterCoords W H)

end Sys2Proof.Machine
end

