-- ==== Sys2Proof/Safety.lean ====
section
/-! DEFINITION. What claims are stated in: runs of steps, what is true of every state a run reaches,
and what a state shows of a pass's outcome. -/

namespace Sys2Proof.Machine

/-- `n` steps, stopping at the first fault or refusal. -/
def run : Nat → State → Answer
  | 0, s => .next s
  | n + 1, s =>
    match step s with
    | .next t => run n t
    | .fault f => .fault f
    | .refused r => .refused r

/-- The outcome with its next state, if it is one, changed by `f`. -/
def mapNext (f : State → State) : Answer → Answer
  | .next t => .next (f t)
  | .fault r => .fault r
  | .refused r => .refused r

/-- The number of coordinates before the scan position in raster order (R144). -/
def pixelsBefore (w : Work) : Nat := w.curY.toNat * w.latW.toNat + w.curX.toNat

/-- The box of the coordinate a pass is at (R96). -/
def currentBox (w : Work) : Box :=
  areaBox w.latW.toNat w.latH.toNat w.latHalf.toNat w.curX.toNat w.curY.toNat

/-- The latched configuration is legal and the scan position is inside the image (10_state.md R18,
R20). -/
structure ScanOk (w : Work) : Prop where
  width : 1 ≤ w.latW.toNat
  height : 1 ≤ w.latH.toNat
  size : w.latSize ≠ 0
  half : w.latHalf = halfOfSize w.latSize
  inRow : w.curX.toNat < w.latW.toNat
  inColumn : w.curY.toNat < w.latH.toNat

/-- The Area registers and the window are those of the current coordinate (R21, R23, R96 to R98). -/
structure AreaOk (imem : List Host.Cell) (w : Work) : Prop where
  left : w.left.toNat = (currentBox w).left
  top : w.top.toNat = (currentBox w).top
  right : w.right.toNat = (currentBox w).right
  bottom : w.bottom.toNat = (currentBox w).bottom
  rows : w.rows.toNat = boxRows (currentBox w)
  cols : w.cols.toNat = boxCols (currentBox w)
  win : sampleWindow imem w.latW.toNat w.latH.toNat (currentBox w) = some w.win

/-- The kernel header is that of the record the source gave (R22, R106); a generator's record of the
right shape is whole (R109). -/
structure HeaderOk (kmem : List (Nat × Half)) (w : Work) : Prop where
  fromStatic : w.latKsrc = .static →
    w.krows = headerRows (kmemHalf kmem 0) ∧ w.kcols = headerCols (kmemHalf kmem 0)
  fromGenerator : w.latKsrc = .generator →
    ∃ h cells, w.krec = h :: cells ∧ w.krows = headerRows h ∧ w.kcols = headerCols h ∧
      (w.krows = w.rows → w.kcols = w.cols →
        cells.length = 5 * (w.rows.toNat * w.cols.toNat))

/-- What holds of the working registers while a pass runs, by phase (R27: each is written before it
is read). -/
structure PassOk (imem omem : List Host.Cell) (kmem : List (Nat × Half)) (phase : BitVec 3)
    (w : Work) : Prop where
  scan : ScanOk w
  /-- From `KRESOLVE` on. -/
  area : 2 ≤ phase.toNat → AreaOk imem w
  /-- From `KCHECK` on. -/
  header : 3 ≤ phase.toNat → HeaderOk kmem w
  /-- At `KCHECK`'s cells: the buffer is the expansion of the record's cells before the next. -/
  cells : w.decoding = true → phase = 0b011 ∧ w.krows = w.rows ∧ w.kcols = w.cols ∧
    w.ker.length < w.rows.toNat * w.cols.toNat ∧
    expandCells (recordOf kmem w) 0 w.ker.length = .kernel w.ker
  /-- From `KSUM` on: the buffer is the expansion of every cell of the record (R24, R110). -/
  kernel : 4 ≤ phase.toNat → w.krows = w.rows ∧ w.kcols = w.cols ∧
    w.ker.length = w.rows.toNat * w.cols.toNat ∧
    expandCells (recordOf kmem w) 0 (w.rows.toNat * w.cols.toNat) = .kernel w.ker
  /-- From `MAC` on: the sums are in and none is 0 (R121). -/
  sums : 5 ≤ phase.toNat → w.ksum = ksumOf w.ker ∧ zeroLanes w.ksum = 0
  /-- From `NORM` on. -/
  weighted : 6 ≤ phase.toNat → w.asum = asumOf w.win w.ker
  /-- At `WRITE`. -/
  quotients : phase = 0b111 → w.quot = quotOf w.asum w.ksum
  /-- The output written so far is exactly the pixels before the scan position, each with alpha 255
  (R131, R133). -/
  written : ∀ a, (Memory.get omem a).isSome ↔ a < 4 * pixelsBefore w
  opaqueAlpha : ∀ k, k < pixelsBefore w → Memory.get omem (4 * k + 3) = some 255

/-- The invariant of every step: canonical memories; `STATUS`, `PHASE` and the error record agree
(R12, R14 to R16); the output is valid in `DONE` and not while `BUSY` (R29); an exchange is open only
in `KRESOLVE`; and `PassOk` while `BUSY`. -/
structure State.Inv (s : State) : Prop where
  imemWf : Memory.wf s.imem
  omemWf : Memory.wf s.omem
  kmemWf : Memory.wf s.kmem
  phase : s.phase = 0 ↔ s.mode ≠ .busy
  errCode : s.errCode = .none ↔ s.mode ≠ .error
  errRecord : s.mode ≠ .error → s.errX = 0 ∧ s.errY = 0 ∧ s.errInfo = 0
  valid : s.omemValid = true → s.mode ≠ .busy
  doneValid : s.mode = .done → s.omemValid = true
  exchange : s.genOpen = true → s.mode = .busy ∧ s.phase = 0b010 ∧ s.work.latKsrc = .generator
  pass : s.mode = .busy → PassOk s.imem s.omem s.kmem s.phase s.work

/-- The pixel a host can read at pixel index `k` of the output (R42, R52): four bytes with a specified
value. -/
def outputPixel (s : State) (k : Nat) : Option Sample :=
  match outputByte s (4 * k), outputByte s (4 * k + 1), outputByte s (4 * k + 2),
    outputByte s (4 * k + 3) with
  | some r, some g, some b, some a => some ⟨r, g, b, a⟩
  | _, _, _, _ => none

/-- A state shows the outcome of a pass (R146): the whole output, the error record, or an engine that
waits for its kernel source for ever (R113). -/
def showsOutcome (t : State) : PassOutcome → Prop
  | .done pixels => t.mode = .done ∧ ∀ k, outputPixel t k = pixels[k]?
  | .error e x y info => t.mode = .error ∧ t.errCode = e ∧ t.errX.toNat = x ∧ t.errY.toNat = y ∧
      t.errInfo = info ∧ ∀ a, outputByte t a = none
  | .waiting => t.mode = .busy ∧ t.phase = 0b010 ∧ t.genOpen = true ∧ step t = .next t

/-- The Area record of a coordinate (R72), for an image and a half size. -/
def areaRecordAt (imem : List Host.Cell) (W H half : Nat) (c : Nat × Nat) : List Half :=
  match sampleWindow imem W H (areaBox W H half c.1 c.2) with
  | none => []
  | some win => boxRecord (areaBox W H half c.1 c.2) c.1 c.2 win

/-- A pass that has just been accepted (R138 step 4), with nothing more from the host. -/
structure PassStart (s : State) : Prop where
  inv : s.Inv
  busy : s.mode = .busy
  collect : s.phase = 0b001
  atX : s.work.curX = 0
  atY : s.work.curY = 0
  quiet : s.inbox = []

end Sys2Proof.Machine
end

