-- ==== Sys2Proof/Certificates/Slice0/Obligations.lean ====
section
/-! DEFINITION. The statements for the provers. Each docstring names the rule of spec/ it formalises;
where a clause is the model's own choice, it says so and names the log entry. -/

open Sys2Proof Sys2Proof.Machine

/-! ## Encodings (30_encoding.md) -/

/-- R61, R62, R69, R75: no bit of an encoding is dropped. -/
def Obligations.DecodeInvertsEncode : Prop :=
  ∀ i : Instr, i.wellFormed = true → decode (encode i) = .ok i

/-- R60 to R62, R69, R70, R75: a command word or a phase code that decodes is the encoding of what it
decodes to; a cell that decodes has the tag of its form, and the values the form uses. -/
def Obligations.EncodeInvertsDecode : Prop :=
  (∀ (w : RegWord) (i : Instr), decode (.cmd w) = .ok i → encode i = .cmd w) ∧
  (∀ (c : BitVec 3) (i : Instr), decode (.seq c) = .ok i → encode i = .seq c) ∧
  (∀ (tag v0 v1 v2 v3 : Half) (i : Instr), decode (.kcell tag v0 v1 v2 v3) = .ok i →
    ∃ u0 u1 u2 u3, encode i = .kcell tag u0 u1 u2 u3 ∧
      mkPixel tag u0 u1 u2 u3 = mkPixel tag v0 v1 v2 v3 ∧
      mkPixel tag v0 v1 v2 v3 ≠ none)

/-- R61, R62, R66: the words the decoder rejects are exactly those with `OP` 3 to 15 or a reserved bit
set. -/
def Obligations.IllegalWordsAreTheReservedOnes : Prop :=
  ∀ w : RegWord, decode (.cmd w) = .reject .illegalCommand ↔
    3 ≤ (w.extractLsb' 0 4).toNat ∨
    ((w.extractLsb' 0 4 = 0 ∨ w.extractLsb' 0 4 = 2) ∧ w.extractLsb' 4 28 ≠ 0) ∨
    (w.extractLsb' 0 4 = 1 ∧ (w.extractLsb' 10 6 ≠ 0 ∨ w.extractLsb' 24 8 ≠ 0))

/-- Words written out from R61, R69, R75 (and 95_test_vectors.md 2.8): one of each format and field. -/
def Obligations.SampleWordsDecode : Prop :=
  decode (.cmd 0x00000000) = .ok .nop ∧
  decode (.cmd 0x00000002) = .ok .ack ∧
  decode (.cmd 0x00030301) = .ok (.convolve 0 .generator true 3) ∧
  decode (.cmd 0x00050211) = .ok (.convolve 1 .static true 5) ∧
  decode (.cmd 0x00FF00F1) = .ok (.convolve 15 .static false 255) ∧
  decode (.cmd 0x00000401) = .reject .illegalCommand ∧
  decode (.kcell 0x0001 0xFFFF 7 7 7) = .ok (.scalar 0xFFFF) ∧
  decode (.kcell 0x0003 1 2 0xFFFF 0x63) = .ok (.pixel3 1 2 0xFFFF) ∧
  decode (.kcell 0x0005 0 0 0 0) = .reject .reservedTag ∧
  decode (.seq 0b011) = .ok .kcheck

/-! ## Kernel cells (40_pixel_primitives.md) -/

/-- R81 to R85, R110: each cell form, performed in a running pass, appends its own Pixel to the kernel
buffer, and changes nothing else, but that the last cell ends `KCHECK`. One cell a step is the model's
choice (log 10). -/
def Obligations.CellFormsAppendTheirPixel : Prop :=
  ∀ (s : State) (n a r g b : Half) (i : Instr) (p : Weight), s.mode = .busy →
    (i = .pixel0 ∧ p = ⟨0, 0, 0, 255⟩ ∨ i = .scalar n ∧ p = ⟨n, n, n, 255⟩ ∨
      i = .pixel2 n a ∧ p = ⟨n, n, n, a⟩ ∨ i = .pixel3 r g b ∧ p = ⟨r, g, b, 255⟩ ∨
      i = .pixel4 r g b a ∧ p = ⟨r, g, b, a⟩) →
    exec i s = .next
      (if s.work.ker.length + 1 < s.work.rows.toNat * s.work.cols.toNat then
        { s with work := { s.work with ker := s.work.ker ++ [p] } }
      else
        { s with
          phase := 0b100
          work := { s.work with ker := s.work.ker ++ [p], decoding := false } })

/-- R69 to R71, R81 to R85, U10: `MKPIXEL` by tag, the values a form does not use ignored by it and by
the decoder; a tag of 5 or more constructs nothing and is rejected by name. -/
def Obligations.MkPixelByTag : Prop :=
  ∀ n a r g b x y z u v w q tag : Half,
    mkPixel 0 x y z q = some ⟨0, 0, 0, 255⟩ ∧
    mkPixel 1 n x y z = some ⟨n, n, n, 255⟩ ∧
    mkPixel 2 n a x y = some ⟨n, n, n, a⟩ ∧
    mkPixel 3 r g b x = some ⟨r, g, b, 255⟩ ∧
    mkPixel 4 r g b a = some ⟨r, g, b, a⟩ ∧
    decode (.kcell 0 x y z q) = decode (.kcell 0 u v w n) ∧
    decode (.kcell 1 n x y z) = decode (.kcell 1 n u v w) ∧
    decode (.kcell 2 n a x y) = decode (.kcell 2 n a u v) ∧
    decode (.kcell 3 r g b x) = decode (.kcell 3 r g b u) ∧
    (mkPixel tag x y z q = none ↔ 5 ≤ tag.toNat) ∧
    (decode (.kcell tag x y z q) = .reject .reservedTag ↔ 5 ≤ tag.toNat)

/-- R71, R110, R159: at a reserved tag the step records `ConfigurationError` sub-code 3, with the
coordinate and the cell index, and the pass is over without output (R162). A step for each cell is the
model's choice (log 10). -/
def Obligations.ReservedCellRaises : Prop :=
  ∀ (s : State) (tag v0 v1 v2 v3 : Half), s.mode = .busy → s.phase = 0b011 →
    s.work.decoding = true → s.inbox = [] →
    cellCode (recordHalf s) s.work.ker.length = some (.kcell tag v0 v1 v2 v3) → 5 ≤ tag.toNat →
    s.work.ker.length < 65025 →
    ∃ t, step s = .next t ∧ t.mode = .error ∧ t.phase = 0 ∧ t.errCode = .configuration ∧
      t.errX = s.work.curX ∧ t.errY = s.work.curY ∧
      t.errInfo.toNat = s.work.ker.length * 65536 + 3 ∧
      (∀ a, outputByte t a = none) ∧
      t = { s with
        mode := t.mode
        phase := t.phase
        errCode := t.errCode
        errX := t.errX
        errY := t.errY
        errInfo := t.errInfo
        work := t.work
        omem := t.omem
        omemValid := t.omemValid
        fresh := t.fresh }

/-! ## Offsets (40_pixel_primitives.md R86) -/

/-- R86: the offset of every coordinate of the image is `(y*W + x)*4`, a multiple of 4, which moves by 4
along a row and by `4*W` down a column, starts at 0 and ends at `W*H*4 - 4`. That it is below `2^34` is
an inference of the spec's own (R86: "[derived: the width, from `00_scope.md` rule R5]"). That a
coordinate outside the image has none is the model's, from U1 (log 13). -/
def Obligations.OffsetIsExact : Prop :=
  ∀ W H x y : Nat, W ≤ 65535 → H ≤ 65535 →
    (x < W → y < H →
      ∃ o, offset W H x y = some o ∧ o = (y * W + x) * 4 ∧ o < 2 ^ 34 ∧ 4 ∣ o ∧
        (x + 1 < W → offset W H (x + 1) y = some (o + 4)) ∧
        (y + 1 < H → offset W H x (y + 1) = some (o + 4 * W)) ∧
        offset W H 0 0 = some 0 ∧
        offset W H (W - 1) (H - 1) = some (W * H * 4 - 4)) ∧
    (¬(x < W ∧ y < H) → offset W H x y = none) ∧
    offset 3 3 1 1 = some 16

/-! ## COLLECT (41_neighborhood_collector.md) -/

/-- R96, R95: in a running pass at a coordinate of the image `COLLECT` completes, with the box clamped
on each edge by itself; it writes the Area registers, the window and the phase, nothing else. -/
def Obligations.CollectClampsTheBox : Prop :=
  ∀ s : State, s.mode = .busy → ScanOk s.work →
    ∃ t, exec .collect s = .next t ∧
      (t.work.left.toNat : Int) = max 0 ((s.work.curX.toNat : Int) - s.work.latHalf.toNat) ∧
      (t.work.right.toNat : Int) =
        min ((s.work.latW.toNat : Int) - 1) (s.work.curX.toNat + s.work.latHalf.toNat) ∧
      (t.work.top.toNat : Int) = max 0 ((s.work.curY.toNat : Int) - s.work.latHalf.toNat) ∧
      (t.work.bottom.toNat : Int) =
        min ((s.work.latH.toNat : Int) - 1) (s.work.curY.toNat + s.work.latHalf.toNat) ∧
      (t.work.cols.toNat : Int) = (t.work.right.toNat : Int) - t.work.left.toNat + 1 ∧
      (t.work.rows.toNat : Int) = (t.work.bottom.toNat : Int) - t.work.top.toNat + 1 ∧
      t = { s with
        phase := 0b010
        work := { s.work with
          left := t.work.left
          right := t.work.right
          top := t.work.top
          bottom := t.work.bottom
          rows := t.work.rows
          cols := t.work.cols
          win := t.work.win } }

/-- R97, R87, R41: `COLLECT` leaves `rows*cols` samples, row by row; sample `(i, j)` is the four bytes
of `IMEM` at the offset of `(left + j, top + i)`. -/
def Obligations.CollectSamplesTheWindow : Prop :=
  ∀ s : State, s.mode = .busy → ScanOk s.work →
    ∃ t, exec .collect s = .next t ∧
      t.work.win.length = t.work.rows.toNat * t.work.cols.toNat ∧
      ∀ i j, i < t.work.rows.toNat → j < t.work.cols.toNat →
        ∃ o, offset s.work.latW.toNat s.work.latH.toNat (t.work.left.toNat + j)
            (t.work.top.toNat + i) = some o ∧
          t.work.win[i * t.work.cols.toNat + j]? = some
            ⟨imemByte s.imem o, imemByte s.imem (o + 1), imemByte s.imem (o + 2),
              imemByte s.imem (o + 3)⟩

/-- R98: the shape after `COLLECT`: at least 1, at most `2*half + 1` and the image's side; both counts
are `2*half + 1` at an interior coordinate. -/
def Obligations.CollectShapeIsBounded : Prop :=
  ∀ s t : State, s.mode = .busy → ScanOk s.work → exec .collect s = .next t →
    1 ≤ t.work.rows.toNat ∧ t.work.rows.toNat ≤ 2 * s.work.latHalf.toNat + 1 ∧
    t.work.rows.toNat ≤ s.work.latH.toNat ∧
    1 ≤ t.work.cols.toNat ∧ t.work.cols.toNat ≤ 2 * s.work.latHalf.toNat + 1 ∧
    t.work.cols.toNat ≤ s.work.latW.toNat ∧
    (s.work.latHalf.toNat ≤ s.work.curX.toNat →
      s.work.curX.toNat + s.work.latHalf.toNat ≤ s.work.latW.toNat - 1 →
      s.work.latHalf.toNat ≤ s.work.curY.toNat →
      s.work.curY.toNat + s.work.latHalf.toNat ≤ s.work.latH.toNat - 1 →
      t.work.rows.toNat = 2 * s.work.latHalf.toNat + 1 ∧
      t.work.cols.toNat = 2 * s.work.latHalf.toNat + 1)

/-- R99 (an inference of the spec's own, from R96 and R18): every coordinate of a clamped box lies
inside it, on all four sides, and inside the image. -/
def Obligations.WindowStaysInsideTheImage : Prop :=
  ∀ W H half cx cy : Nat, cx < W → cy < H →
    ∀ c ∈ boxCoords (areaBox W H half cx cy),
      (areaBox W H half cx cy).left ≤ c.1 ∧ (areaBox W H half cx cy).top ≤ c.2 ∧
      c.1 ≤ (areaBox W H half cx cy).right ∧ (areaBox W H half cx cy).right ≤ W - 1 ∧
      c.2 ≤ (areaBox W H half cx cy).bottom ∧ (areaBox W H half cx cy).bottom ≤ H - 1 ∧
      c.1 < W ∧ c.2 < H

/-- R47, U1: asked to work outside the image, `COLLECT` and `WRITE` stop with a fault of their own
name (log 13). -/
def Obligations.OutsideTheImageFaults : Prop :=
  ∀ s : State, s.mode = .busy →
    ¬(s.work.curX.toNat < s.work.latW.toNat ∧ s.work.curY.toNat < s.work.latH.toNat) →
    exec .collect s = .fault .outsideImage ∧ exec .write s = .fault .outsideImage

/-! ## The kernel: size, resolution, validation (42_kernel_resolution.md) -/

/-- R106, R107: with the static source `KRESOLVE` takes the header of the record in `KMEM`; it writes
the kernel header, its own record register and the phase. -/
def Obligations.KresolveTakesTheStaticHeader : Prop :=
  ∀ s : State, s.mode = .busy → s.work.latKsrc = .static →
    exec .kresolve s = .next { s with
      phase := 0b011
      work := { s.work with
        krows := (kmemHalf s.kmem 0).extractLsb' 0 8
        kcols := (kmemHalf s.kmem 0).extractLsb' 8 8
        krec := [] } }

/-- R106, R108, R109: with the generator source `KRESOLVE` sends the Area record, once for the
exchange, and on a complete answer takes its header, and its cells only if the shape is the Area's;
nothing else changes. Answers as a list, and one step for the exchange, are the model's choice (logs 8,
9). -/
def Obligations.KresolveMakesOneExchange : Prop :=
  ∀ (s : State) (h : Half) (cells : List Half) (later : List (List Half)), s.mode = .busy →
    s.work.latKsrc = .generator → s.genIn = (h :: cells) :: later →
    (h.extractLsb' 0 8 = s.work.rows → h.extractLsb' 8 8 = s.work.cols →
      5 * (s.work.rows.toNat * s.work.cols.toNat) ≤ cells.length) →
    exec .kresolve s = .next { s with
      phase := 0b011
      genOpen := false
      genIn := later
      genOut := if s.genOpen then s.genOut else s.genOut ++ [areaRecord s.work]
      work := { s.work with
        krows := h.extractLsb' 0 8
        kcols := h.extractLsb' 8 8
        krec := h :: (if h.extractLsb' 0 8 = s.work.rows ∧ h.extractLsb' 8 8 = s.work.cols then
          cells.take (5 * (s.work.rows.toNat * s.work.cols.toNat)) else []) } }

/-- R113, U6: while the generator's answer is not complete the engine stays in `KRESOLVE` with
`BUSY = 1`, however many steps it takes, and sends nothing again. Answers as a list, and
the Area record sent in one step, are the model's choice (logs 8, 9). -/
def Obligations.UnansweredExchangeWaitsForEver : Prop :=
  ∀ (s : State) (n : Nat), s.mode = .busy → s.phase = 0b010 → s.work.latKsrc = .generator →
    s.inbox = [] →
    (∀ answer later, s.genIn = answer :: later →
      takeAnswer s.work.rows s.work.cols answer = none) →
    run (n + 1) s = .next { s with
      genOpen := true
      genOut := if s.genOpen then s.genOut else s.genOut ++ [areaRecord s.work] }

/-- R72: the Area record is the box, the centre, then R, G, B, A of every window pixel in order,
`6 + 4*rows*cols` beats. -/
def Obligations.AreaRecordLayout : Prop :=
  ∀ (imem : List Host.Cell) (w : Work), AreaOk imem w → w.curX.toNat < w.latW.toNat →
    w.curY.toNat < w.latH.toNat →
    (areaRecord w).length = 6 + 4 * (w.rows.toNat * w.cols.toNat) ∧
    (areaRecord w).take 6 = [w.left, w.top, w.right, w.bottom, w.curX, w.curY] ∧
    (∀ p px, w.win[p]? = some px →
      (areaRecord w)[6 + 4 * p]? = some (px.r.setWidth 16) ∧
      (areaRecord w)[6 + 4 * p + 1]? = some (px.g.setWidth 16) ∧
      (areaRecord w)[6 + 4 * p + 2]? = some (px.b.setWidth 16) ∧
      (areaRecord w)[6 + 4 * p + 3]? = some (px.a.setWidth 16)) ∧
    areaRecordWellFormed (areaRecord w) = true

/-- R108, R44: no operation but `KRESOLVE` uses the `GEN` port, and `KRESOLVE` sends at most one
record, none while its exchange is open. That an operation of a pass does nothing while `BUSY = 0` is
the model's choice (log 11). -/
def Obligations.OnlyKresolveUsesGen : Prop :=
  ∀ (i : Instr) (s t : State), exec i s = .next t →
    (i ≠ .kresolve → t.genOut = s.genOut ∧ t.genIn = s.genIn ∧ t.genOpen = s.genOpen) ∧
    (t.genOut = s.genOut ∨
      i = .kresolve ∧ s.genOpen = false ∧ t.genOut = s.genOut ++ [areaRecord s.work])

/-- R110, R157: `KCHECK` raises `KernelShapeError` when either count differs, with the coordinate and
the four counts; the output is lost, nothing else changes. -/
def Obligations.KcheckRejectsAnotherShape : Prop :=
  ∀ s : State, s.mode = .busy → (s.work.krows ≠ s.work.rows ∨ s.work.kcols ≠ s.work.cols) →
    ∃ t, exec .kcheck s = .next t ∧ t.mode = .error ∧ t.phase = 0 ∧ t.errCode = .kernelShape ∧
      t.errX = s.work.curX ∧ t.errY = s.work.curY ∧
      t.errInfo.toNat = s.work.cols.toNat * 2 ^ 24 + s.work.rows.toNat * 2 ^ 16 +
        s.work.kcols.toNat * 2 ^ 8 + s.work.krows.toNat ∧
      (∀ a, outputByte t a = none) ∧
      t = { s with
        mode := t.mode
        phase := t.phase
        errCode := t.errCode
        errX := t.errX
        errY := t.errY
        errInfo := t.errInfo
        work := t.work
        omem := t.omem
        omemValid := t.omemValid
        fresh := t.fresh }

/-- R110 (log 10): with the Area's shape `KCHECK` goes to its cells, from index 0 with nothing built
yet. -/
def Obligations.KcheckStartsAtTheFirstCell : Prop :=
  ∀ s : State, s.mode = .busy → s.work.krows = s.work.rows → s.work.kcols = s.work.cols →
    exec .kcheck s = .next { s with work := { s.work with ker := [], decoding := true } }

/-- R110, R111: `KCHECK` as a whole, from the shape check to the last cell, is the expansion of every
cell of the record by `MKPIXEL`, in increasing index: either the kernel buffer holds them all, or the
lowest reserved cell is reported. One cell a step is the model's choice (log 10). So is the fault
`recordTooShort` at a record that ends before its last cell (log 24); a record of the Area's shape as
`KRESOLVE` leaves it (`HeaderOk`; R107, R109) never does. -/
def Obligations.KcheckExpandsEveryCell : Prop :=
  ∀ s : State, s.mode = .busy → s.phase = 0b011 → s.work.decoding = false → s.inbox = [] →
    s.work.krows = s.work.rows → s.work.kcols = s.work.cols →
    1 ≤ s.work.rows.toNat → 1 ≤ s.work.cols.toNat →
    (HeaderOk s.kmem s.work →
      expandCells (recordHalf s) 0 (s.work.rows.toNat * s.work.cols.toNat) ≠ .short) ∧
    match expandCells (recordHalf s) 0 (s.work.rows.toNat * s.work.cols.toNat) with
    | .kernel ker =>
      run (1 + s.work.rows.toNat * s.work.cols.toNat) s = .next { s with
        phase := 0b100
        work := { s.work with ker := ker, decoding := false } }
    | .reserved k => ∃ n t, run n s = .next t ∧ n ≤ 1 + s.work.rows.toNat * s.work.cols.toNat ∧
        t.mode = .error ∧ t.errCode = .configuration ∧ t.errX = s.work.curX ∧
        t.errY = s.work.curY ∧ t.errInfo = configInfo 3 (BitVec.ofNat 16 k)
    | .short => ∃ n, run n s = .fault .recordTooShort

/-- R112, R107: all Areas of an image have one shape exactly when `half = 0`, or the image is at most
`half + 1` on both sides; and a static record of the full shape fails at `(0, 0)` unless
`half = 0`. -/
def Obligations.StaticKernelsNeedOneShape : Prop :=
  ∀ W H half : Nat, 1 ≤ W → 1 ≤ H → half ≤ 127 →
    ((∀ x y, x < W → y < H →
      boxRows (areaBox W H half x y) = boxRows (areaBox W H half 0 0) ∧
      boxCols (areaBox W H half x y) = boxCols (areaBox W H half 0 0)) ↔
    half = 0 ∨ (W ≤ half + 1 ∧ H ≤ half + 1)) ∧
    ∀ (imem : List Host.Cell) (kmem : List (Nat × Half)), half ≠ 0 →
      (headerRows (kmemHalf kmem 0)).toNat = 2 * half + 1 →
      (headerCols (kmemHalf kmem 0)).toNat = 2 * half + 1 →
      ∃ info, wholePass imem W H half (staticKernel kmem) = .error .kernelShape 0 0 info

/-! ## Sums, quotients (43_accumulator_normalizer.md) -/

/-- R120: `KSUM`, on a kernel buffer of at most 65025 weights without a zero sum, leaves in each
accumulator the exact sum of its channel, and changes nothing else but the phase. -/
def Obligations.KsumAddsTheWeights : Prop :=
  ∀ s : State, s.mode = .busy → s.work.ker.length ≤ 65025 →
    (s.work.ker.map (·.r.toInt)).sum ≠ 0 → (s.work.ker.map (·.g.toInt)).sum ≠ 0 →
    (s.work.ker.map (·.b.toInt)).sum ≠ 0 →
    ∃ t, exec .ksum s = .next t ∧
      t.work.ksum.r.toInt = (s.work.ker.map (·.r.toInt)).sum ∧
      t.work.ksum.g.toInt = (s.work.ker.map (·.g.toInt)).sum ∧
      t.work.ksum.b.toInt = (s.work.ker.map (·.b.toInt)).sum ∧
      t = { s with phase := 0b101, work := { s.work with ksum := t.work.ksum } }

/-- R121, R158: a zero sum on any channel is `DegenerateKernelError` at the coordinate, with one bit
for each zero channel; no output is left. -/
def Obligations.DegenerateKernelIsRejected : Prop :=
  ∀ s : State, s.mode = .busy → s.work.ker.length ≤ 65025 →
    ((s.work.ker.map (·.r.toInt)).sum = 0 ∨ (s.work.ker.map (·.g.toInt)).sum = 0 ∨
      (s.work.ker.map (·.b.toInt)).sum = 0) →
    ∃ t, exec .ksum s = .next t ∧ t.mode = .error ∧ t.phase = 0 ∧
      t.errCode = .degenerateKernel ∧ t.errX = s.work.curX ∧ t.errY = s.work.curY ∧
      t.errInfo.toNat = (if (s.work.ker.map (·.r.toInt)).sum = 0 then 1 else 0) +
        (if (s.work.ker.map (·.g.toInt)).sum = 0 then 2 else 0) +
        (if (s.work.ker.map (·.b.toInt)).sum = 0 then 4 else 0) ∧
      (∀ a, outputByte t a = none) ∧
      t = { s with
        mode := t.mode
        phase := t.phase
        errCode := t.errCode
        errX := t.errX
        errY := t.errY
        errInfo := t.errInfo
        work := t.work
        omem := t.omem
        omemValid := t.omemValid
        fresh := t.fresh }

/-- R122: `MAC`, on at most 65025 pairs, leaves in each accumulator the exact sum of sample times
weight, the sample an unsigned byte, the weight a signed integer, pixel `(i, j)` with cell `(i, j)`;
it changes nothing else but the phase. -/
def Obligations.MacAddsTheProducts : Prop :=
  ∀ s : State, s.mode = .busy → (s.work.win.zip s.work.ker).length ≤ 65025 →
    ∃ t, exec .mac s = .next t ∧
      t.work.asum.r.toInt =
        ((s.work.win.zip s.work.ker).map fun c => (c.1.r.toNat : Int) * c.2.r.toInt).sum ∧
      t.work.asum.g.toInt =
        ((s.work.win.zip s.work.ker).map fun c => (c.1.g.toNat : Int) * c.2.g.toInt).sum ∧
      t.work.asum.b.toInt =
        ((s.work.win.zip s.work.ker).map fun c => (c.1.b.toNat : Int) * c.2.b.toInt).sum ∧
      t = { s with phase := 0b110, work := { s.work with asum := t.work.asum } }

/-- R123 (an inference of the spec's own): no sum of at most 65025 cells overflows: the accumulators
hold the exact sums, which are within the stated bounds. -/
def Obligations.AccumulatorsNeverOverflow : Prop :=
  ∀ (win : List Sample) (ker : List Weight), ker.length ≤ 65025 →
    (ksumOf ker).r.toInt = (ker.map (·.r.toInt)).sum ∧
    (ksumOf ker).g.toInt = (ker.map (·.g.toInt)).sum ∧
    (ksumOf ker).b.toInt = (ker.map (·.b.toInt)).sum ∧
    |(ksumOf ker).r.toInt| ≤ 2130739200 ∧ |(ksumOf ker).g.toInt| ≤ 2130739200 ∧
    |(ksumOf ker).b.toInt| ≤ 2130739200 ∧ (2130739200 : Int) < 2 ^ 31 ∧
    (asumOf win ker).r.toInt =
      ((win.zip ker).map fun c => (c.1.r.toNat : Int) * c.2.r.toInt).sum ∧
    (asumOf win ker).g.toInt =
      ((win.zip ker).map fun c => (c.1.g.toNat : Int) * c.2.g.toInt).sum ∧
    (asumOf win ker).b.toInt =
      ((win.zip ker).map fun c => (c.1.b.toNat : Int) * c.2.b.toInt).sum ∧
    |(asumOf win ker).r.toInt| ≤ 543338496000 ∧ |(asumOf win ker).g.toInt| ≤ 543338496000 ∧
    |(asumOf win ker).b.toInt| ≤ 543338496000 ∧ (543338496000 : Int) < 2 ^ 39

/-- R124: `NORM`, with no zero divisor and sums within R123's bound, leaves the quotients toward zero
of each lane by its own sum, and changes nothing else but the phase. -/
def Obligations.NormDividesTowardZero : Prop :=
  ∀ s : State, s.mode = .busy → s.work.ksum.r ≠ 0 → s.work.ksum.g ≠ 0 → s.work.ksum.b ≠ 0 →
    |s.work.asum.r.toInt| < 2 ^ 39 → |s.work.asum.g.toInt| < 2 ^ 39 →
    |s.work.asum.b.toInt| < 2 ^ 39 →
    ∃ t, exec .norm s = .next t ∧
      t.work.quot.r.toInt = Int.tdiv s.work.asum.r.toInt s.work.ksum.r.toInt ∧
      t.work.quot.g.toInt = Int.tdiv s.work.asum.g.toInt s.work.ksum.g.toInt ∧
      t.work.quot.b.toInt = Int.tdiv s.work.asum.b.toInt s.work.ksum.b.toInt ∧
      t = { s with phase := 0b111, work := { s.work with quot := t.work.quot } }

/-- R125: no sum, and so no stored pixel, depends on an alpha of a sample or of a weight; the stored
alpha is 255 whatever the quotients. -/
def Obligations.AlphaIsNotWeighted : Prop :=
  ∀ (win : List Sample) (ker : List Weight) (f : Sample → Byte) (g : Weight → Half) (q : Lanes),
    ksumOf (ker.map fun k => { k with a := g k }) = ksumOf ker ∧
    asumOf (win.map fun p => { p with a := f p }) (ker.map fun k => { k with a := g k }) =
      asumOf win ker ∧
    filterPixel (win.map fun p => { p with a := f p }) (ker.map fun k => { k with a := g k }) =
      filterPixel win ker ∧
    (outPixel q).a = 255

/-- R126: multiplying every weight of a channel by one non-zero integer, each channel by its own,
within `i16`, changes no stored pixel. -/
def Obligations.ScalingTheKernelChangesNothing : Prop :=
  ∀ (win : List Sample) (ker ker' : List Weight) (cr cg cb : Int), cr ≠ 0 → cg ≠ 0 → cb ≠ 0 →
    ker.length ≤ 65025 →
    List.Forall₂ (fun k k' => k'.r.toInt = cr * k.r.toInt ∧ k'.g.toInt = cg * k.g.toInt ∧
      k'.b.toInt = cb * k.b.toInt) ker ker' →
    filterPixel win ker' = filterPixel win ker

/-- R126, S2, S3: a kernel of all-equal non-zero weights gives the plain mean of the window, truncated,
with alpha 255; for a window of one sample that is the sample's own colours. -/
def Obligations.EqualWeightsGiveTheMean : Prop :=
  ∀ (win : List Sample) (w a : Half), 1 ≤ win.length → win.length ≤ 65025 → w ≠ 0 →
    ∃ p, filterPixel win (List.replicate win.length ⟨w, w, w, a⟩) = .stored p ∧
      p.r.toNat = (win.map (·.r.toNat)).sum / win.length ∧
      p.g.toNat = (win.map (·.g.toNat)).sum / win.length ∧
      p.b.toNat = (win.map (·.b.toNat)).sum / win.length ∧ p.a = 255

/-- R127: on a channel with no negative weight and a sum that is not 0, the quotient lies between the
least and the greatest sample of the window, so between 0 and 255, and the clamp changes nothing. -/
def Obligations.NonNegativeWeightsStayInRange : Prop :=
  ∀ (win : List Sample) (ker : List Weight) (q : Lanes) (least greatest : Nat),
    win.length = ker.length → ker.length ≤ 65025 → q = quotOf (asumOf win ker) (ksumOf ker) →
    ((∀ k ∈ ker, 0 ≤ k.r.toInt) → (ker.map (·.r.toInt)).sum ≠ 0 →
      (∀ p ∈ win, least ≤ p.r.toNat ∧ p.r.toNat ≤ greatest) →
      least ≤ q.r.toInt ∧ q.r.toInt ≤ greatest ∧ ((outPixel q).r.toNat : Int) = q.r.toInt) ∧
    ((∀ k ∈ ker, 0 ≤ k.g.toInt) → (ker.map (·.g.toInt)).sum ≠ 0 →
      (∀ p ∈ win, least ≤ p.g.toNat ∧ p.g.toNat ≤ greatest) →
      least ≤ q.g.toInt ∧ q.g.toInt ≤ greatest ∧ ((outPixel q).g.toNat : Int) = q.g.toInt) ∧
    ((∀ k ∈ ker, 0 ≤ k.b.toInt) → (ker.map (·.b.toInt)).sum ≠ 0 →
      (∀ p ∈ win, least ≤ p.b.toNat ∧ p.b.toNat ≤ greatest) →
      least ≤ q.b.toInt ∧ q.b.toInt ≤ greatest ∧ ((outPixel q).b.toNat : Int) = q.b.toInt)

/-! ## WRITE (44_output_writer.md, 45_sequencer_commands.md) -/

/-- R130, R131: `WRITE` completes at every coordinate of the image: the four bytes at its offset are
the clamped quotients and alpha 255, every other byte of `OMEM` reads as before, and no other memory,
register of the host or port changes. -/
def Obligations.WriteStoresOnePixel : Prop :=
  ∀ s : State, s.mode = .busy → s.work.curX.toNat < s.work.latW.toNat →
    s.work.curY.toNat < s.work.latH.toNat →
    ∃ t o, exec .write s = .next t ∧
      offset s.work.latW.toNat s.work.latH.toNat s.work.curX.toNat s.work.curY.toNat = some o ∧
      (∃ r, Memory.get t.omem o = some r ∧
        (r.toNat : Int) = max 0 (min 255 s.work.quot.r.toInt)) ∧
      (∃ g, Memory.get t.omem (o + 1) = some g ∧
        (g.toNat : Int) = max 0 (min 255 s.work.quot.g.toInt)) ∧
      (∃ b, Memory.get t.omem (o + 2) = some b ∧
        (b.toNat : Int) = max 0 (min 255 s.work.quot.b.toInt)) ∧
      Memory.get t.omem (o + 3) = some 255 ∧
      (∀ a, a < o ∨ o + 4 ≤ a → Memory.get t.omem a = Memory.get s.omem a) ∧
      t = { s with
        mode := t.mode
        phase := t.phase
        work := t.work
        omem := t.omem
        omemValid := t.omemValid
        fresh := t.fresh }

/-- R144, R145, R18, R29: after `WRITE` the scan is at the next coordinate in raster order, with the
phase `COLLECT` and every other working register as it was; at the last coordinate `BUSY` moves to
`DONE`, the phase to `IDLE`, the error record stays and the output is valid. -/
def Obligations.WriteAdvancesOrCompletes : Prop :=
  ∀ s : State, s.mode = .busy → s.work.curX.toNat < s.work.latW.toNat →
    s.work.curY.toNat < s.work.latH.toNat →
    ∃ t, exec .write s = .next t ∧
      (s.work.curX.toNat + 1 < s.work.latW.toNat →
        t.mode = .busy ∧ t.phase = 0b001 ∧ t.omemValid = s.omemValid ∧
        t.work.curX.toNat = s.work.curX.toNat + 1 ∧
        t.work = { s.work with curX := t.work.curX }) ∧
      (s.work.curX.toNat + 1 = s.work.latW.toNat → s.work.curY.toNat + 1 < s.work.latH.toNat →
        t.mode = .busy ∧ t.phase = 0b001 ∧ t.omemValid = s.omemValid ∧
        t.work.curY.toNat = s.work.curY.toNat + 1 ∧
        t.work = { s.work with curX := 0, curY := t.work.curY }) ∧
      (s.work.curX.toNat + 1 = s.work.latW.toNat → s.work.curY.toNat + 1 = s.work.latH.toNat →
        t.mode = .done ∧ t.phase = 0 ∧ t.omemValid = true ∧ t.errCode = s.errCode ∧
        t.errX = s.errX ∧ t.errY = s.errY ∧ t.errInfo = s.errInfo)

/-- R132 (an inference of the spec's own, from R130): truncation and floor of every rational give the
same stored byte; they differ only below 0, where both are stored as 0. -/
def Obligations.FloorAndTruncationStoreTheSame : Prop :=
  ∀ v : ℚ,
    clamp8 ⌊v⌋ = clamp8 (if 0 ≤ v then ⌊v⌋ else ⌈v⌉) ∧
    (⌊v⌋ ≠ (if 0 ≤ v then ⌊v⌋ else ⌈v⌉) →
      v < 0 ∧ clamp8 ⌊v⌋ = 0 ∧ clamp8 (if 0 ≤ v then ⌊v⌋ else ⌈v⌉) = 0) ∧
    ∀ a b : Int, b ≠ 0 → v = (a : ℚ) / b → tdiv a b = if 0 ≤ v then ⌊v⌋ else ⌈v⌉

/-! ## Host commands (45_sequencer_commands.md) -/

/-- `NOP` changes nothing, in every state, and its word is 0 and no other (R137). `IDLE` changes
nothing, in every state: the model's inference from R19 and R150 (log 22). -/
def Obligations.NopAndIdleChangeNothing : Prop :=
  (∀ s : State, exec .nop s = .next s ∧ exec .idle s = .next s) ∧
  ∀ w : RegWord, decode (.cmd w) = .ok .nop ↔ w = 0x00000000

/-- R138, R105, R20: `CONVOLVE` with a recognised source, an image and a resolved size that is not 0
starts a pass: record and output discarded, configuration latched, position `(0, 0)`, `BUSY` set. That
an unspecified `OMEM` lists nothing is the model's choice (log 4). -/
def Obligations.ConvolveStartsThePass : Prop :=
  ∀ (s : State) (tag : BitVec 4) (k : KernelSource) (v : Bool) (z size : BitVec 8),
    s.mode ≠ .busy → tag.toNat ≤ 1 → s.imgW ≠ 0 → s.imgH ≠ 0 →
    size = (if v then z else match k with
      | .static => (kmemHalf s.kmem 0).extractLsb' 0 8
      | .generator => s.ksizeDefault) →
    size ≠ 0 →
    ∃ t, exec (.convolve tag k v z) s = .next t ∧ t.work.latHalf.toNat = size.toNat / 2 ∧
      t = { s with
        mode := .busy
        phase := 0b001
        errCode := .none
        errX := 0
        errY := 0
        errInfo := 0
        omem := []
        omemValid := false
        work := { s.work with
          latW := s.imgW
          latH := s.imgH
          latSize := size
          latHalf := t.work.latHalf
          latKsrc := k
          curX := 0
          curY := 0
          decoding := false } }

/-- R138, R156, R161: `CONVOLVE` with an unrecognised tag or an image of no pixels ends in
`InvalidSourceError`, all causes reported together, before the size is looked at; no memory of the
host's and no port changes. -/
def Obligations.ConvolveRejectsAnInvalidSource : Prop :=
  ∀ (s : State) (tag : BitVec 4) (k : KernelSource) (v : Bool) (z : BitVec 8),
    s.mode ≠ .busy → (2 ≤ tag.toNat ∨ s.imgW = 0 ∨ s.imgH = 0) →
    ∃ t, exec (.convolve tag k v z) s = .next t ∧ t.mode = .error ∧ t.phase = 0 ∧
      t.errCode = .invalidSource ∧ t.errX = 0 ∧ t.errY = 0 ∧
      t.errInfo.toNat = tag.toNat + (if s.imgW = 0 then 256 else 0) +
        (if s.imgH = 0 then 512 else 0) ∧
      (∀ a, outputByte t a = none) ∧
      t = { s with
        mode := t.mode
        phase := t.phase
        errCode := t.errCode
        errX := t.errX
        errY := t.errY
        errInfo := t.errInfo
        work := t.work
        omem := t.omem
        omemValid := t.omemValid
        fresh := t.fresh }

/-- R105, R159: a resolved size of 0 is `ConfigurationError` sub-code 2, whichever source gave it. -/
def Obligations.ConvolveRejectsSizeZero : Prop :=
  ∀ (s : State) (tag : BitVec 4) (k : KernelSource) (v : Bool) (z : BitVec 8),
    s.mode ≠ .busy → tag.toNat ≤ 1 → s.imgW ≠ 0 → s.imgH ≠ 0 →
    (if v then z else match k with
      | .static => (kmemHalf s.kmem 0).extractLsb' 0 8
      | .generator => s.ksizeDefault) = 0 →
    ∃ t, exec (.convolve tag k v z) s = .next t ∧ t.mode = .error ∧ t.phase = 0 ∧
      t.errCode = .configuration ∧ t.errX = 0 ∧ t.errY = 0 ∧ t.errInfo = 2 ∧
      (∀ a, outputByte t a = none) ∧
      t = { s with
        mode := t.mode
        phase := t.phase
        errCode := t.errCode
        errX := t.errX
        errY := t.errY
        errInfo := t.errInfo
        work := t.work
        omem := t.omem
        omemValid := t.omemValid
        fresh := t.fresh }

/-- R140: nothing of the earlier call influences a `CONVOLVE`: whatever completion record, output and
working registers it left, in a state other than `BUSY`, the command does what it does from another,
and what it latches is the same. -/
def Obligations.ConvolveForgetsTheLastCall : Prop :=
  ∀ (s : State) (tag : BitVec 4) (k : KernelSource) (v : Bool) (z : BitVec 8) (m : Mode)
    (e : ErrCode) (x y : BitVec 16) (info : RegWord) (om : List Host.Cell) (ov : Bool) (w : Work),
    s.mode ≠ .busy → m ≠ .busy →
    ∃ t u, exec (.convolve tag k v z) s = .next t ∧
      exec (.convolve tag k v z) { s with
        mode := m
        errCode := e
        errX := x
        errY := y
        errInfo := info
        omem := om
        omemValid := ov
        work := w } = .next u ∧
      u = { t with work := u.work } ∧
      (t.mode = .busy →
        u.work.latW = t.work.latW ∧ u.work.latH = t.work.latH ∧ u.work.latSize = t.work.latSize ∧
        u.work.latHalf = t.work.latHalf ∧ u.work.latKsrc = t.work.latKsrc ∧
        u.work.curX = t.work.curX ∧ u.work.curY = t.work.curY)

/-- R139: `ACK` in `DONE` or `ERROR` clears `STATUS` and the error record and nothing else: `OMEM`, its
validity and the host's registers stay; in `IDLE` and `BUSY` it does nothing; its word is 2 and no
other. -/
def Obligations.AckClearsTheRecord : Prop :=
  ∀ (s : State) (w : RegWord),
    (s.mode = .done ∨ s.mode = .error → exec .ack s = .next { s with
      mode := .idle
      errCode := .none
      errX := 0
      errY := 0
      errInfo := 0 }) ∧
    (s.mode = .idle ∨ s.mode = .busy → exec .ack s = .next s) ∧
    (decode (.cmd w) = .ok .ack ↔ w = 0x00000002)

/-- R141: a word written to `CMD` while `BUSY = 1` is dropped whole, legal or not: no state changes. -/
def Obligations.CommandsWhileBusyAreDropped : Prop :=
  ∀ (s : State) (w : RegWord) (later : List Event) (i : Instr), s.mode = .busy →
    (s.inbox = .regWrite 0x00 w :: later → step s = .next { s with inbox := later }) ∧
    (i.format = .cmd → exec i s = .next s)

/-- R142, R66: an illegal word written to `CMD` in another state discards the old record and raises
`ConfigurationError(0, 0, 1)`; `OMEM` and its validity stay. -/
def Obligations.IllegalWordRaises : Prop :=
  ∀ (s : State) (w : RegWord) (later : List Event), s.mode ≠ .busy →
    s.inbox = .regWrite 0x00 w :: later → decode (.cmd w) = .reject .illegalCommand →
    ∃ t, step s = .next t ∧ t.mode = .error ∧ t.phase = 0 ∧ t.errCode = .configuration ∧
      t.errX = 0 ∧ t.errY = 0 ∧ t.errInfo = 0x00000001 ∧ t.omem = s.omem ∧
      t.omemValid = s.omemValid ∧
      t = { s with
        mode := t.mode
        phase := t.phase
        errCode := t.errCode
        errX := t.errX
        errY := t.errY
        errInfo := t.errInfo
        work := t.work
        inbox := later
        fresh := t.fresh }

/-! ## Registers, memories, reset (10_state.md, 20_memory.md, 70_reset_and_hazards.md) -/

/-- R28: what `State.reset` holds of what the spec gives a reset value. -/
def Obligations.ResetValues : Prop :=
  State.reset.mode = .idle ∧ State.reset.phase = 0 ∧ State.reset.errCode = .none ∧
  State.reset.errX = 0 ∧ State.reset.errY = 0 ∧ State.reset.errInfo = 0 ∧
  State.reset.imgW = 0 ∧ State.reset.imgH = 0 ∧ State.reset.ksizeDefault = 5 ∧
  State.reset.omemValid = false

/-- R175, R177: the reset input, in every state, gives the registers their reset values, leaves `IMEM`
and `KMEM` (log 18), makes the output not valid, drops an exchange in progress; and after it nothing
happens until the host writes, the engine's turn then being `IDLE` (log 22). -/
def Obligations.ResetInput : Prop :=
  ∀ (s : State) (later : List Event), s.inbox = .reset :: later →
    ∃ t, step s = .next t ∧ t.mode = .idle ∧ t.phase = 0 ∧ t.errCode = .none ∧ t.errX = 0 ∧
      t.errY = 0 ∧ t.errInfo = 0 ∧ t.imgW = 0 ∧ t.imgH = 0 ∧ t.ksizeDefault = 5 ∧
      t.imem = s.imem ∧ t.kmem = s.kmem ∧ t.omemValid = false ∧ (∀ a, outputByte t a = none) ∧
      t.genOpen = false ∧ t.genOut = s.genOut ∧ t.inbox = later ∧
      (later = [] → ∀ n, run n t = .next t)

/-- R12, R19: what a read of `STATUS` returns: the three bits of the one state, 0 elsewhere; the phase
field is 0 while `BUSY = 0`, and one of 1 to 7, unspecified, while `BUSY = 1` (log 5). -/
def Obligations.StatusRead : Prop :=
  ∀ (s : State) (later : List Event), s.inbox = .regRead 0x04 :: later →
    ∃ t, step s = .next t ∧
      t.rdata.getLsbD 0 = (s.mode == .busy) ∧ t.rdata.getLsbD 1 = (s.mode == .done) ∧
      t.rdata.getLsbD 2 = (s.mode == .error) ∧ t.rdata.getLsbD 3 = false ∧
      t.rdata.extractLsb' 7 25 = 0 ∧
      (s.mode ≠ .busy → t.rdata.extractLsb' 4 3 = 0) ∧
      (s.mode = .busy → t.rdata.extractLsb' 4 3 ≠ 0) ∧
      t = { s with inbox := later, rdata := t.rdata, fresh := t.fresh }

/-- R11, R13 to R17, R73: what a read of every other register offset returns, `ERR_CODE` by its code;
`CMD` and offsets outside the map read 0; a read changes no register. -/
def Obligations.RegisterReads : Prop :=
  ∀ (s : State) (off : Nat) (later : List Event), s.inbox = .regRead off :: later → off % 4 = 0 →
    off ≠ 0x04 →
    ∃ t, step s = .next t ∧
      t.rdata.toNat = (if off = 0x08 then (match s.errCode with
          | .none => 0
          | .invalidSource => 1
          | .kernelShape => 2
          | .degenerateKernel => 3
          | .configuration => 4)
        else if off = 0x0C then s.errX.toNat else if off = 0x10 then s.errY.toNat
        else if off = 0x14 then s.errInfo.toNat else if off = 0x18 then s.imgW.toNat
        else if off = 0x1C then s.imgH.toNat else if off = 0x20 then s.ksizeDefault.toNat
        else 0) ∧
      t = { s with inbox := later, rdata := t.rdata, fresh := t.fresh }

/-- R11, R17, R45: a write to a writable register stores the bits of its field and nothing else, in
every state; a write to any other offset but `CMD` changes nothing (for a read-only register: log
16). -/
def Obligations.RegisterWrites : Prop :=
  ∀ (s : State) (off : Nat) (v : RegWord) (later : List Event),
    s.inbox = .regWrite off v :: later → off % 4 = 0 → off ≠ 0 →
    step s = .next { s with
      inbox := later
      imgW := if off = 0x18 then v.extractLsb' 0 16 else s.imgW
      imgH := if off = 0x1C then v.extractLsb' 0 16 else s.imgH
      ksizeDefault := if off = 0x20 then v.extractLsb' 0 8 else s.ksizeDefault }

/-- R40, R48, R45: while `BUSY = 0` the host writes and reads `IMEM` and `KMEM` inside the space. The
unit written reads as written, every other as before, and nothing else changes; a read returns the unit
it names, zero-extended, and changes nothing but what was read. The sizes of the spaces: log 17. -/
def Obligations.HostWritesInputMemory : Prop :=
  ∀ (s : State) (a : Nat) (v : Byte) (h : Half) (later : List Event), s.mode ≠ .busy →
    (s.inbox = .imemWrite a v :: later → a < 65535 * 65535 * 4 →
      ∃ t, step s = .next t ∧ imemByte t.imem a = v ∧
        (∀ b, b ≠ a → imemByte t.imem b = imemByte s.imem b) ∧
        t = { s with inbox := later, imem := t.imem }) ∧
    (s.inbox = .kmemWrite a h :: later → a < 325126 →
      ∃ t, step s = .next t ∧ kmemHalf t.kmem a = h ∧
        (∀ b, b ≠ a → kmemHalf t.kmem b = kmemHalf s.kmem b) ∧
        t = { s with inbox := later, kmem := t.kmem }) ∧
    (s.inbox = .imemRead a :: later → a < 65535 * 65535 * 4 →
      ∃ t, step s = .next t ∧ t.rdata.toNat = (imemByte s.imem a).toNat ∧
        t = { s with inbox := later, rdata := t.rdata }) ∧
    (s.inbox = .kmemRead a :: later → a < 325126 →
      ∃ t, step s = .next t ∧ t.rdata.toNat = (kmemHalf s.kmem a).toNat ∧
        t = { s with inbox := later, rdata := t.rdata })

/-- R40, R51, R179, R180, U4 (logs 14, 17): a host access to an input memory while `BUSY = 1` is
refused by name; beyond the space it faults. R45, U9 (log 15): in every state a `REG` access at an
offset that is not a multiple of 4 is refused by name. -/
def Obligations.HostAccessStops : Prop :=
  ∀ (s : State) (a : Nat) (v : Byte) (h : Half) (e : Event) (later : List Event),
    s.inbox = e :: later →
    (s.mode = .busy →
      e = .imemWrite a v ∨ e = .imemRead a ∨ e = .kmemWrite a h ∨ e = .kmemRead a →
      step s = .refused .inputAccessWhileBusy) ∧
    (s.mode ≠ .busy → 65535 * 65535 * 4 ≤ a → e = .imemWrite a v ∨ e = .imemRead a →
      step s = .fault .noSuchAddress) ∧
    (s.mode ≠ .busy → 325126 ≤ a → e = .kmemWrite a h ∨ e = .kmemRead a →
      step s = .fault .noSuchAddress) ∧
    ∀ (off : Nat) (word : RegWord), off % 4 ≠ 0 → e = .regWrite off word ∨ e = .regRead off →
      step s = .refused .unalignedRegister

/-- R29, R52, R42: a host read of `OMEM` returns the stored byte when the output is valid, and changes
nothing but what was read. -/
def Obligations.OutputReadsAsWritten : Prop :=
  ∀ (s : State) (a : Nat) (v : Byte) (later : List Event), s.inbox = .omemRead a :: later →
    a < 65535 * 65535 * 4 → s.omemValid = true → Memory.get s.omem a = some v →
    step s = .next { s with inbox := later, rdata := v.setWidth 32 }

/-- R29, R52: the output becomes valid only when a pass ends `DONE`, and stops being valid only when a
`CONVOLVE` is decoded in a state other than `BUSY`, or at reset. -/
def Obligations.OutputValidityLifetime : Prop :=
  ∀ s t : State, s.Inv → step s = .next t →
    (s.omemValid = false → t.omemValid = true → s.mode = .busy ∧ t.mode = .done) ∧
    (s.omemValid = true → t.omemValid = false →
      (∃ w tag k v z, (∃ later, s.inbox = .regWrite 0x00 w :: later) ∧
        decode (.cmd w) = .ok (.convolve tag k v z)) ∨
      ∃ later, s.inbox = .reset :: later)

/-! ## The whole machine -/

/-- A step runs the decoded operation: a command word when the host writes it while `BUSY = 0` (R13),
the phase's operation when it is the engine's turn in a pass (R19). Events and turns as a list are the
model's choice (log 7); so is a cell as an operation of a step of its own, in `KCHECK`'s loop of R110
(log 10); that the engine's turn while `BUSY = 0` is `IDLE` is the model's inference (log 22). -/
def Obligations.StepRunsTheDecodedOperation : Prop :=
  ∀ (s s' : State) (later : List Event) (i : Instr), i.wellFormed = true →
    (∀ w, s.inbox = .regWrite 0x00 w :: later → s.mode ≠ .busy → decode (.cmd w) = .ok i →
      step s = exec i { s with inbox := later }) ∧
    ((s.inbox = .engine :: later ∧ s' = { s with inbox := later } ∨ s.inbox = [] ∧ s' = s) →
      (s.mode ≠ .busy → step s = exec .idle s') ∧
      (s.mode = .busy → ¬(s.phase = 0b011 ∧ s.work.decoding = true) →
        decode (.seq s.phase) = .ok i → step s = exec i s') ∧
      (∀ c, s.mode = .busy → s.phase = 0b011 → s.work.decoding = true →
        cellCode (recordHalf s) s.work.ker.length = some c → decode c = .ok i →
        step s = exec i s'))

/-- R41, R43, R54, R55, R17: no operation writes `IMEM`, `KMEM` or a register of the host's, and none
but `WRITE` gives a byte of `OMEM` a value. That an operation of a pass does nothing while `BUSY = 0` is
the model's choice (log 11). -/
def Obligations.OperationsLeaveTheInputsAlone : Prop :=
  ∀ (i : Instr) (s t : State), exec i s = .next t →
    t.imem = s.imem ∧ t.kmem = s.kmem ∧ t.imgW = s.imgW ∧ t.imgH = s.imgH ∧
    t.ksizeDefault = s.ksizeDefault ∧ t.inbox = s.inbox ∧ t.rdata = s.rdata ∧
    (i ≠ .write → t.omem = s.omem ∨ t.omem = [])

/-- R17, R54, R181: a running pass does not depend on the host's registers: whatever they hold, every
sequencer operation and cell form does the same. That it does nothing while `BUSY = 0` is the model's
choice (log 11). -/
def Obligations.RunningPassIgnoresTheRegisters : Prop :=
  ∀ (i : Instr) (s : State) (w h : BitVec 16) (d : BitVec 8), i.format ≠ .cmd →
    exec i { s with imgW := w, imgH := h, ksizeDefault := d } =
      mapNext (fun t => { t with imgW := w, imgH := h, ksizeDefault := d }) (exec i s)

/-- R150: the transitions of the engine state, complete. A write to `CMD` moves it as the table says
of the command decoded (R137, R138, R139, R141, R142), reset to `IDLE` (R175); from `BUSY` the engine's
turn moves it to `DONE` only at the last `WRITE` (R145), and to `ERROR` only where an operation raises
at the coordinate (R160); nothing else moves it. The case of `NORM` (phase `0b110`) is the model's
inference from U2 (log 12): in no run does `NORM` raise (R121, R143). Turns are the model's choice
(log 7), and so is `KCHECK`'s loop as steps of the same phase (log 10). -/
def Obligations.StateTransitionsAreComplete : Prop :=
  ∀ s t : State, step s = .next t →
    (∀ w later, s.inbox = .regWrite 0x00 w :: later →
      (s.mode = .busy → t.mode = .busy) ∧
      (s.mode ≠ .busy →
        (decode (.cmd w) = .ok .nop → t.mode = s.mode) ∧
        (decode (.cmd w) = .ok .ack → t.mode = .idle) ∧
        (∀ tag k v z, decode (.cmd w) = .ok (.convolve tag k v z) →
          t.mode = if tag.toNat ≤ 1 ∧ s.imgW ≠ 0 ∧ s.imgH ≠ 0 ∧
              (if v then z else match k with
                | .static => (kmemHalf s.kmem 0).extractLsb' 0 8
                | .generator => s.ksizeDefault) ≠ 0 then .busy else .error) ∧
        (decode (.cmd w) = .reject .illegalCommand → t.mode = .error) ∧
        (decode (.cmd w) = .ok .nop ∨ decode (.cmd w) = .ok .ack ∨
          (∃ tag k v z, decode (.cmd w) = .ok (.convolve tag k v z)) ∨
          decode (.cmd w) = .reject .illegalCommand))) ∧
    (∀ later, s.inbox = .reset :: later → t.mode = .idle) ∧
    (s.mode ≠ t.mode →
      (∃ w later, s.inbox = .regWrite 0x00 w :: later) ∨
      (∃ later, s.inbox = .reset :: later) ∨
      ((s.inbox = [] ∨ ∃ later, s.inbox = .engine :: later) ∧ s.mode = .busy ∧
        (t.mode = .done ∧ s.phase = 0b111 ∧
            s.work.curX.toNat + 1 = s.work.latW.toNat ∧
            s.work.curY.toNat + 1 = s.work.latH.toNat ∨
          t.mode = .error ∧ t.errX = s.work.curX ∧ t.errY = s.work.curY ∧
            (s.phase = 0b011 ∧ (t.errCode = .kernelShape ∨ t.errCode = .configuration) ∨
              (s.phase = 0b100 ∨ s.phase = 0b110) ∧ t.errCode = .degenerateKernel))))

/-- The invariant holds at reset (R28). -/
def Obligations.InvariantHoldsAtReset : Prop := State.reset.Inv

/-- R12, R14 to R16, R18 to R29: every step keeps the invariant: `STATUS`, `PHASE` and the error
record agree, memories stay canonical, working registers hold what their rules say (the kernel buffer:
the expansion of the record's cells so far, R24, R110), and the output written so far is exactly the
pixels before the scan position. -/
def Obligations.EveryStepKeepsTheInvariant : Prop :=
  ∀ s t : State, s.Inv → step s = .next t → t.Inv

/-- R99, R109, U1: in a state that meets the invariant the engine never works outside the image
(U1's fault, named by the model: log 13) and never runs past a record (a fault of the model's own:
log 24). -/
def Obligations.EngineNeverFaults : Prop :=
  ∀ s : State, s.Inv → step s ≠ .fault .outsideImage ∧ step s ≠ .fault .recordTooShort

/-- R143, R146, R133, R162, R187: a pass with the static source, once accepted and left alone, ends
after a bounded number of steps, and shows exactly the outcome of the big-step form: the whole output
of `ConvPixel`, or the first error in raster order. What is one step is the model's choice (logs 7,
10). -/
def Obligations.StaticPassIsTheBigStep : Prop :=
  ∀ s : State, PassStart s → s.work.latKsrc = .static →
    ∃ n t, n ≤ s.work.latW.toNat * s.work.latH.toNat * (7 + 255 * 255) ∧ run n s = .next t ∧
      t.mode ≠ .busy ∧
      showsOutcome t (wholePass s.imem s.work.latW.toNat s.work.latH.toNat s.work.latHalf.toNat
        (staticKernel s.kmem))

/-- R146, R108, R109, R113: a pass with a generator that answers each Area record by a function shows
exactly the outcome of the big-step form, with that function as the kernel source; it has sent the
Area records in raster order, each once: all of them when it ends `DONE`, those up to `(ex, ey)` and
none after when it ends in `ERROR` there, those up to the scan position when it waits. Answers as a
list are the model's choice (log 8). -/
def Obligations.GeneratorPassIsTheBigStep : Prop :=
  ∀ (s : State) (gen : List Half → List Half) (later : List (List Half)), PassStart s →
    s.work.latKsrc = .generator →
    s.genIn = (rasterCoords s.work.latW.toNat s.work.latH.toNat).map (fun c =>
      gen (areaRecordAt s.imem s.work.latW.toNat s.work.latH.toNat s.work.latHalf.toNat c)) ++
      later →
    ∃ n t sent, run n s = .next t ∧
      showsOutcome t (wholePass s.imem s.work.latW.toNat s.work.latH.toNat s.work.latHalf.toNat
        (generatorKernel gen)) ∧
      t.genOut = s.genOut ++ ((rasterCoords s.work.latW.toNat s.work.latH.toNat).take sent).map
        (areaRecordAt s.imem s.work.latW.toNat s.work.latH.toNat s.work.latHalf.toNat) ∧
      (t.mode = .done → sent = s.work.latW.toNat * s.work.latH.toNat) ∧
      (t.mode = .error → sent = t.errY.toNat * s.work.latW.toNat + t.errX.toNat + 1) ∧
      (t.mode = .busy → sent = pixelsBefore t.work + 1)
end

