-- ==== Sys2Proof/Laws/State.lean ====
section
/-! SUPPORT. One lemma for each field of each named update of the state, so that no later proof
unfolds a record update. -/

namespace Sys2Proof.Machine

/-! `dropWork` touches `work` and `fresh` only (R27). -/

@[simp] theorem dropWork_mode (s : State) : (dropWork s).mode = s.mode := rfl
@[simp] theorem dropWork_phase (s : State) : (dropWork s).phase = s.phase := rfl
@[simp] theorem dropWork_errCode (s : State) : (dropWork s).errCode = s.errCode := rfl
@[simp] theorem dropWork_errX (s : State) : (dropWork s).errX = s.errX := rfl
@[simp] theorem dropWork_errY (s : State) : (dropWork s).errY = s.errY := rfl
@[simp] theorem dropWork_errInfo (s : State) : (dropWork s).errInfo = s.errInfo := rfl
@[simp] theorem dropWork_imgW (s : State) : (dropWork s).imgW = s.imgW := rfl
@[simp] theorem dropWork_imgH (s : State) : (dropWork s).imgH = s.imgH := rfl
@[simp] theorem dropWork_ksizeDefault (s : State) :
    (dropWork s).ksizeDefault = s.ksizeDefault := rfl
@[simp] theorem dropWork_work (s : State) : (dropWork s).work = Config.freeWork s.fresh := rfl
@[simp] theorem dropWork_imem (s : State) : (dropWork s).imem = s.imem := rfl
@[simp] theorem dropWork_omem (s : State) : (dropWork s).omem = s.omem := rfl
@[simp] theorem dropWork_kmem (s : State) : (dropWork s).kmem = s.kmem := rfl
@[simp] theorem dropWork_omemValid (s : State) : (dropWork s).omemValid = s.omemValid := rfl
@[simp] theorem dropWork_genOpen (s : State) : (dropWork s).genOpen = s.genOpen := rfl
@[simp] theorem dropWork_genOut (s : State) : (dropWork s).genOut = s.genOut := rfl
@[simp] theorem dropWork_genIn (s : State) : (dropWork s).genIn = s.genIn := rfl
@[simp] theorem dropWork_inbox (s : State) : (dropWork s).inbox = s.inbox := rfl
@[simp] theorem dropWork_rdata (s : State) : (dropWork s).rdata = s.rdata := rfl
@[simp] theorem dropWork_fresh (s : State) : (dropWork s).fresh = s.fresh + 1 := rfl

/-! `dropOutput` touches `omem` and `omemValid` only (R52). -/

@[simp] theorem dropOutput_mode (s : State) : (dropOutput s).mode = s.mode := rfl
@[simp] theorem dropOutput_phase (s : State) : (dropOutput s).phase = s.phase := rfl
@[simp] theorem dropOutput_errCode (s : State) : (dropOutput s).errCode = s.errCode := rfl
@[simp] theorem dropOutput_errX (s : State) : (dropOutput s).errX = s.errX := rfl
@[simp] theorem dropOutput_errY (s : State) : (dropOutput s).errY = s.errY := rfl
@[simp] theorem dropOutput_errInfo (s : State) : (dropOutput s).errInfo = s.errInfo := rfl
@[simp] theorem dropOutput_imgW (s : State) : (dropOutput s).imgW = s.imgW := rfl
@[simp] theorem dropOutput_imgH (s : State) : (dropOutput s).imgH = s.imgH := rfl
@[simp] theorem dropOutput_ksizeDefault (s : State) :
    (dropOutput s).ksizeDefault = s.ksizeDefault := rfl
@[simp] theorem dropOutput_work (s : State) : (dropOutput s).work = s.work := rfl
@[simp] theorem dropOutput_imem (s : State) : (dropOutput s).imem = s.imem := rfl
@[simp] theorem dropOutput_omem (s : State) : (dropOutput s).omem = [] := rfl
@[simp] theorem dropOutput_kmem (s : State) : (dropOutput s).kmem = s.kmem := rfl
@[simp] theorem dropOutput_omemValid (s : State) : (dropOutput s).omemValid = false := rfl
@[simp] theorem dropOutput_genOpen (s : State) : (dropOutput s).genOpen = s.genOpen := rfl
@[simp] theorem dropOutput_genOut (s : State) : (dropOutput s).genOut = s.genOut := rfl
@[simp] theorem dropOutput_genIn (s : State) : (dropOutput s).genIn = s.genIn := rfl
@[simp] theorem dropOutput_inbox (s : State) : (dropOutput s).inbox = s.inbox := rfl
@[simp] theorem dropOutput_rdata (s : State) : (dropOutput s).rdata = s.rdata := rfl
@[simp] theorem dropOutput_fresh (s : State) : (dropOutput s).fresh = s.fresh := rfl

/-! `clearRecord` touches `STATUS` and `ERR_*` only (R139). -/

@[simp] theorem clearRecord_mode (s : State) : (clearRecord s).mode = .idle := rfl
@[simp] theorem clearRecord_phase (s : State) : (clearRecord s).phase = s.phase := rfl
@[simp] theorem clearRecord_errCode (s : State) : (clearRecord s).errCode = .none := rfl
@[simp] theorem clearRecord_errX (s : State) : (clearRecord s).errX = 0 := rfl
@[simp] theorem clearRecord_errY (s : State) : (clearRecord s).errY = 0 := rfl
@[simp] theorem clearRecord_errInfo (s : State) : (clearRecord s).errInfo = 0 := rfl
@[simp] theorem clearRecord_imgW (s : State) : (clearRecord s).imgW = s.imgW := rfl
@[simp] theorem clearRecord_imgH (s : State) : (clearRecord s).imgH = s.imgH := rfl
@[simp] theorem clearRecord_ksizeDefault (s : State) :
    (clearRecord s).ksizeDefault = s.ksizeDefault := rfl
@[simp] theorem clearRecord_work (s : State) : (clearRecord s).work = s.work := rfl
@[simp] theorem clearRecord_imem (s : State) : (clearRecord s).imem = s.imem := rfl
@[simp] theorem clearRecord_omem (s : State) : (clearRecord s).omem = s.omem := rfl
@[simp] theorem clearRecord_kmem (s : State) : (clearRecord s).kmem = s.kmem := rfl
@[simp] theorem clearRecord_omemValid (s : State) : (clearRecord s).omemValid = s.omemValid := rfl
@[simp] theorem clearRecord_genOpen (s : State) : (clearRecord s).genOpen = s.genOpen := rfl
@[simp] theorem clearRecord_genOut (s : State) : (clearRecord s).genOut = s.genOut := rfl
@[simp] theorem clearRecord_genIn (s : State) : (clearRecord s).genIn = s.genIn := rfl
@[simp] theorem clearRecord_inbox (s : State) : (clearRecord s).inbox = s.inbox := rfl
@[simp] theorem clearRecord_rdata (s : State) : (clearRecord s).rdata = s.rdata := rfl
@[simp] theorem clearRecord_fresh (s : State) : (clearRecord s).fresh = s.fresh := rfl

/-! `raise` writes `STATUS`, the phase and `ERR_*`, and drops the working registers (R160). -/

@[simp] theorem raise_mode (e : ErrCode) (x y : BitVec 16) (info : RegWord) (s : State) :
    (raise e x y info s).mode = .error := rfl
@[simp] theorem raise_phase (e : ErrCode) (x y : BitVec 16) (info : RegWord) (s : State) :
    (raise e x y info s).phase = 0 := rfl
@[simp] theorem raise_errCode (e : ErrCode) (x y : BitVec 16) (info : RegWord) (s : State) :
    (raise e x y info s).errCode = e := rfl
@[simp] theorem raise_errX (e : ErrCode) (x y : BitVec 16) (info : RegWord) (s : State) :
    (raise e x y info s).errX = x := rfl
@[simp] theorem raise_errY (e : ErrCode) (x y : BitVec 16) (info : RegWord) (s : State) :
    (raise e x y info s).errY = y := rfl
@[simp] theorem raise_errInfo (e : ErrCode) (x y : BitVec 16) (info : RegWord) (s : State) :
    (raise e x y info s).errInfo = info := rfl
@[simp] theorem raise_imgW (e : ErrCode) (x y : BitVec 16) (info : RegWord) (s : State) :
    (raise e x y info s).imgW = s.imgW := rfl
@[simp] theorem raise_imgH (e : ErrCode) (x y : BitVec 16) (info : RegWord) (s : State) :
    (raise e x y info s).imgH = s.imgH := rfl
@[simp] theorem raise_ksizeDefault (e : ErrCode) (x y : BitVec 16) (info : RegWord) (s : State) :
    (raise e x y info s).ksizeDefault = s.ksizeDefault := rfl
@[simp] theorem raise_work (e : ErrCode) (x y : BitVec 16) (info : RegWord) (s : State) :
    (raise e x y info s).work = Config.freeWork s.fresh := rfl
@[simp] theorem raise_imem (e : ErrCode) (x y : BitVec 16) (info : RegWord) (s : State) :
    (raise e x y info s).imem = s.imem := rfl
@[simp] theorem raise_omem (e : ErrCode) (x y : BitVec 16) (info : RegWord) (s : State) :
    (raise e x y info s).omem = s.omem := rfl
@[simp] theorem raise_kmem (e : ErrCode) (x y : BitVec 16) (info : RegWord) (s : State) :
    (raise e x y info s).kmem = s.kmem := rfl
@[simp] theorem raise_omemValid (e : ErrCode) (x y : BitVec 16) (info : RegWord) (s : State) :
    (raise e x y info s).omemValid = s.omemValid := rfl
@[simp] theorem raise_genOpen (e : ErrCode) (x y : BitVec 16) (info : RegWord) (s : State) :
    (raise e x y info s).genOpen = s.genOpen := rfl
@[simp] theorem raise_genOut (e : ErrCode) (x y : BitVec 16) (info : RegWord) (s : State) :
    (raise e x y info s).genOut = s.genOut := rfl
@[simp] theorem raise_genIn (e : ErrCode) (x y : BitVec 16) (info : RegWord) (s : State) :
    (raise e x y info s).genIn = s.genIn := rfl
@[simp] theorem raise_inbox (e : ErrCode) (x y : BitVec 16) (info : RegWord) (s : State) :
    (raise e x y info s).inbox = s.inbox := rfl
@[simp] theorem raise_rdata (e : ErrCode) (x y : BitVec 16) (info : RegWord) (s : State) :
    (raise e x y info s).rdata = s.rdata := rfl
@[simp] theorem raise_fresh (e : ErrCode) (x y : BitVec 16) (info : RegWord) (s : State) :
    (raise e x y info s).fresh = s.fresh + 1 := rfl

/-! `raiseInPass` is `raise` at the scan position, with the output dropped (R160, R162). -/

@[simp] theorem raiseInPass_mode (e : ErrCode) (info : RegWord) (s : State) :
    (raiseInPass e info s).mode = .error := rfl
@[simp] theorem raiseInPass_phase (e : ErrCode) (info : RegWord) (s : State) :
    (raiseInPass e info s).phase = 0 := rfl
@[simp] theorem raiseInPass_errCode (e : ErrCode) (info : RegWord) (s : State) :
    (raiseInPass e info s).errCode = e := rfl
@[simp] theorem raiseInPass_errX (e : ErrCode) (info : RegWord) (s : State) :
    (raiseInPass e info s).errX = s.work.curX := rfl
@[simp] theorem raiseInPass_errY (e : ErrCode) (info : RegWord) (s : State) :
    (raiseInPass e info s).errY = s.work.curY := rfl
@[simp] theorem raiseInPass_errInfo (e : ErrCode) (info : RegWord) (s : State) :
    (raiseInPass e info s).errInfo = info := rfl
@[simp] theorem raiseInPass_imgW (e : ErrCode) (info : RegWord) (s : State) :
    (raiseInPass e info s).imgW = s.imgW := rfl
@[simp] theorem raiseInPass_imgH (e : ErrCode) (info : RegWord) (s : State) :
    (raiseInPass e info s).imgH = s.imgH := rfl
@[simp] theorem raiseInPass_ksizeDefault (e : ErrCode) (info : RegWord) (s : State) :
    (raiseInPass e info s).ksizeDefault = s.ksizeDefault := rfl
@[simp] theorem raiseInPass_work (e : ErrCode) (info : RegWord) (s : State) :
    (raiseInPass e info s).work = Config.freeWork s.fresh := rfl
@[simp] theorem raiseInPass_imem (e : ErrCode) (info : RegWord) (s : State) :
    (raiseInPass e info s).imem = s.imem := rfl
@[simp] theorem raiseInPass_omem (e : ErrCode) (info : RegWord) (s : State) :
    (raiseInPass e info s).omem = [] := rfl
@[simp] theorem raiseInPass_kmem (e : ErrCode) (info : RegWord) (s : State) :
    (raiseInPass e info s).kmem = s.kmem := rfl
@[simp] theorem raiseInPass_omemValid (e : ErrCode) (info : RegWord) (s : State) :
    (raiseInPass e info s).omemValid = false := rfl
@[simp] theorem raiseInPass_genOpen (e : ErrCode) (info : RegWord) (s : State) :
    (raiseInPass e info s).genOpen = s.genOpen := rfl
@[simp] theorem raiseInPass_genOut (e : ErrCode) (info : RegWord) (s : State) :
    (raiseInPass e info s).genOut = s.genOut := rfl
@[simp] theorem raiseInPass_genIn (e : ErrCode) (info : RegWord) (s : State) :
    (raiseInPass e info s).genIn = s.genIn := rfl
@[simp] theorem raiseInPass_inbox (e : ErrCode) (info : RegWord) (s : State) :
    (raiseInPass e info s).inbox = s.inbox := rfl
@[simp] theorem raiseInPass_rdata (e : ErrCode) (info : RegWord) (s : State) :
    (raiseInPass e info s).rdata = s.rdata := rfl
@[simp] theorem raiseInPass_fresh (e : ErrCode) (info : RegWord) (s : State) :
    (raiseInPass e info s).fresh = s.fresh + 1 := rfl

/-! `complete` writes `STATUS`, the phase and the output-valid condition, and drops the working registers (R145). -/

@[simp] theorem complete_mode (s : State) : (complete s).mode = .done := rfl
@[simp] theorem complete_phase (s : State) : (complete s).phase = 0 := rfl
@[simp] theorem complete_errCode (s : State) : (complete s).errCode = s.errCode := rfl
@[simp] theorem complete_errX (s : State) : (complete s).errX = s.errX := rfl
@[simp] theorem complete_errY (s : State) : (complete s).errY = s.errY := rfl
@[simp] theorem complete_errInfo (s : State) : (complete s).errInfo = s.errInfo := rfl
@[simp] theorem complete_imgW (s : State) : (complete s).imgW = s.imgW := rfl
@[simp] theorem complete_imgH (s : State) : (complete s).imgH = s.imgH := rfl
@[simp] theorem complete_ksizeDefault (s : State) :
    (complete s).ksizeDefault = s.ksizeDefault := rfl
@[simp] theorem complete_work (s : State) : (complete s).work = Config.freeWork s.fresh := rfl
@[simp] theorem complete_imem (s : State) : (complete s).imem = s.imem := rfl
@[simp] theorem complete_omem (s : State) : (complete s).omem = s.omem := rfl
@[simp] theorem complete_kmem (s : State) : (complete s).kmem = s.kmem := rfl
@[simp] theorem complete_omemValid (s : State) : (complete s).omemValid = true := rfl
@[simp] theorem complete_genOpen (s : State) : (complete s).genOpen = s.genOpen := rfl
@[simp] theorem complete_genOut (s : State) : (complete s).genOut = s.genOut := rfl
@[simp] theorem complete_genIn (s : State) : (complete s).genIn = s.genIn := rfl
@[simp] theorem complete_inbox (s : State) : (complete s).inbox = s.inbox := rfl
@[simp] theorem complete_rdata (s : State) : (complete s).rdata = s.rdata := rfl
@[simp] theorem complete_fresh (s : State) : (complete s).fresh = s.fresh + 1 := rfl

/-! `startPass` writes `STATUS`, the phase and the latched configuration (R138 step 4). -/

@[simp] theorem startPass_mode (k : KernelSource) (z : BitVec 8) (s : State) :
    (startPass k z s).mode = .busy := rfl
@[simp] theorem startPass_phase (k : KernelSource) (z : BitVec 8) (s : State) :
    (startPass k z s).phase = 0b001 := rfl
@[simp] theorem startPass_errCode (k : KernelSource) (z : BitVec 8) (s : State) :
    (startPass k z s).errCode = s.errCode := rfl
@[simp] theorem startPass_errX (k : KernelSource) (z : BitVec 8) (s : State) :
    (startPass k z s).errX = s.errX := rfl
@[simp] theorem startPass_errY (k : KernelSource) (z : BitVec 8) (s : State) :
    (startPass k z s).errY = s.errY := rfl
@[simp] theorem startPass_errInfo (k : KernelSource) (z : BitVec 8) (s : State) :
    (startPass k z s).errInfo = s.errInfo := rfl
@[simp] theorem startPass_imgW (k : KernelSource) (z : BitVec 8) (s : State) :
    (startPass k z s).imgW = s.imgW := rfl
@[simp] theorem startPass_imgH (k : KernelSource) (z : BitVec 8) (s : State) :
    (startPass k z s).imgH = s.imgH := rfl
@[simp] theorem startPass_ksizeDefault (k : KernelSource) (z : BitVec 8) (s : State) :
    (startPass k z s).ksizeDefault = s.ksizeDefault := rfl
@[simp] theorem startPass_work (k : KernelSource) (z : BitVec 8) (s : State) :
    (startPass k z s).work = { s.work with latW := s.imgW, latH := s.imgH, latSize := z, latHalf := halfOfSize z, latKsrc := k, curX := 0, curY := 0, decoding := false } := rfl
@[simp] theorem startPass_imem (k : KernelSource) (z : BitVec 8) (s : State) :
    (startPass k z s).imem = s.imem := rfl
@[simp] theorem startPass_omem (k : KernelSource) (z : BitVec 8) (s : State) :
    (startPass k z s).omem = s.omem := rfl
@[simp] theorem startPass_kmem (k : KernelSource) (z : BitVec 8) (s : State) :
    (startPass k z s).kmem = s.kmem := rfl
@[simp] theorem startPass_omemValid (k : KernelSource) (z : BitVec 8) (s : State) :
    (startPass k z s).omemValid = s.omemValid := rfl
@[simp] theorem startPass_genOpen (k : KernelSource) (z : BitVec 8) (s : State) :
    (startPass k z s).genOpen = s.genOpen := rfl
@[simp] theorem startPass_genOut (k : KernelSource) (z : BitVec 8) (s : State) :
    (startPass k z s).genOut = s.genOut := rfl
@[simp] theorem startPass_genIn (k : KernelSource) (z : BitVec 8) (s : State) :
    (startPass k z s).genIn = s.genIn := rfl
@[simp] theorem startPass_inbox (k : KernelSource) (z : BitVec 8) (s : State) :
    (startPass k z s).inbox = s.inbox := rfl
@[simp] theorem startPass_rdata (k : KernelSource) (z : BitVec 8) (s : State) :
    (startPass k z s).rdata = s.rdata := rfl
@[simp] theorem startPass_fresh (k : KernelSource) (z : BitVec 8) (s : State) :
    (startPass k z s).fresh = s.fresh := rfl

/-! `takeHeader` writes the kernel header and the phase only (R106). -/

@[simp] theorem takeHeader_mode (h : Half) (rec : List Half) (s : State) :
    (takeHeader h rec s).mode = s.mode := rfl
@[simp] theorem takeHeader_phase (h : Half) (rec : List Half) (s : State) :
    (takeHeader h rec s).phase = 0b011 := rfl
@[simp] theorem takeHeader_errCode (h : Half) (rec : List Half) (s : State) :
    (takeHeader h rec s).errCode = s.errCode := rfl
@[simp] theorem takeHeader_errX (h : Half) (rec : List Half) (s : State) :
    (takeHeader h rec s).errX = s.errX := rfl
@[simp] theorem takeHeader_errY (h : Half) (rec : List Half) (s : State) :
    (takeHeader h rec s).errY = s.errY := rfl
@[simp] theorem takeHeader_errInfo (h : Half) (rec : List Half) (s : State) :
    (takeHeader h rec s).errInfo = s.errInfo := rfl
@[simp] theorem takeHeader_imgW (h : Half) (rec : List Half) (s : State) :
    (takeHeader h rec s).imgW = s.imgW := rfl
@[simp] theorem takeHeader_imgH (h : Half) (rec : List Half) (s : State) :
    (takeHeader h rec s).imgH = s.imgH := rfl
@[simp] theorem takeHeader_ksizeDefault (h : Half) (rec : List Half) (s : State) :
    (takeHeader h rec s).ksizeDefault = s.ksizeDefault := rfl
@[simp] theorem takeHeader_work (h : Half) (rec : List Half) (s : State) :
    (takeHeader h rec s).work = { s.work with krows := headerRows h, kcols := headerCols h, krec := rec } := rfl
@[simp] theorem takeHeader_imem (h : Half) (rec : List Half) (s : State) :
    (takeHeader h rec s).imem = s.imem := rfl
@[simp] theorem takeHeader_omem (h : Half) (rec : List Half) (s : State) :
    (takeHeader h rec s).omem = s.omem := rfl
@[simp] theorem takeHeader_kmem (h : Half) (rec : List Half) (s : State) :
    (takeHeader h rec s).kmem = s.kmem := rfl
@[simp] theorem takeHeader_omemValid (h : Half) (rec : List Half) (s : State) :
    (takeHeader h rec s).omemValid = s.omemValid := rfl
@[simp] theorem takeHeader_genOpen (h : Half) (rec : List Half) (s : State) :
    (takeHeader h rec s).genOpen = s.genOpen := rfl
@[simp] theorem takeHeader_genOut (h : Half) (rec : List Half) (s : State) :
    (takeHeader h rec s).genOut = s.genOut := rfl
@[simp] theorem takeHeader_genIn (h : Half) (rec : List Half) (s : State) :
    (takeHeader h rec s).genIn = s.genIn := rfl
@[simp] theorem takeHeader_inbox (h : Half) (rec : List Half) (s : State) :
    (takeHeader h rec s).inbox = s.inbox := rfl
@[simp] theorem takeHeader_rdata (h : Half) (rec : List Half) (s : State) :
    (takeHeader h rec s).rdata = s.rdata := rfl
@[simp] theorem takeHeader_fresh (h : Half) (rec : List Half) (s : State) :
    (takeHeader h rec s).fresh = s.fresh := rfl

/-! `resetMachine` leaves the input memories and the outside world (R175, R177). -/

@[simp] theorem resetMachine_mode (s : State) : (resetMachine s).mode = .idle := rfl
@[simp] theorem resetMachine_phase (s : State) : (resetMachine s).phase = 0 := rfl
@[simp] theorem resetMachine_errCode (s : State) : (resetMachine s).errCode = .none := rfl
@[simp] theorem resetMachine_errX (s : State) : (resetMachine s).errX = 0 := rfl
@[simp] theorem resetMachine_errY (s : State) : (resetMachine s).errY = 0 := rfl
@[simp] theorem resetMachine_errInfo (s : State) : (resetMachine s).errInfo = 0 := rfl
@[simp] theorem resetMachine_imgW (s : State) : (resetMachine s).imgW = 0 := rfl
@[simp] theorem resetMachine_imgH (s : State) : (resetMachine s).imgH = 0 := rfl
@[simp] theorem resetMachine_ksizeDefault (s : State) : (resetMachine s).ksizeDefault = 5 := rfl
@[simp] theorem resetMachine_work (s : State) : (resetMachine s).work = Work.reset := rfl
@[simp] theorem resetMachine_imem (s : State) : (resetMachine s).imem = s.imem := rfl
@[simp] theorem resetMachine_omem (s : State) : (resetMachine s).omem = [] := rfl
@[simp] theorem resetMachine_kmem (s : State) : (resetMachine s).kmem = s.kmem := rfl
@[simp] theorem resetMachine_omemValid (s : State) : (resetMachine s).omemValid = false := rfl
@[simp] theorem resetMachine_genOpen (s : State) : (resetMachine s).genOpen = false := rfl
@[simp] theorem resetMachine_genOut (s : State) : (resetMachine s).genOut = s.genOut := rfl
@[simp] theorem resetMachine_genIn (s : State) :
    (resetMachine s).genIn = if s.genOpen then s.genIn.tail else s.genIn := rfl
@[simp] theorem resetMachine_inbox (s : State) : (resetMachine s).inbox = s.inbox := rfl
@[simp] theorem resetMachine_rdata (s : State) : (resetMachine s).rdata = s.rdata := rfl
@[simp] theorem resetMachine_fresh (s : State) : (resetMachine s).fresh = s.fresh := rfl

/-! `sendArea` touches `genOpen` and `genOut` only (R109). -/

@[simp] theorem sendArea_mode (s : State) : (sendArea s).mode = s.mode := by
  unfold sendArea; split <;> rfl
@[simp] theorem sendArea_phase (s : State) : (sendArea s).phase = s.phase := by
  unfold sendArea; split <;> rfl
@[simp] theorem sendArea_errCode (s : State) : (sendArea s).errCode = s.errCode := by
  unfold sendArea; split <;> rfl
@[simp] theorem sendArea_errX (s : State) : (sendArea s).errX = s.errX := by
  unfold sendArea; split <;> rfl
@[simp] theorem sendArea_errY (s : State) : (sendArea s).errY = s.errY := by
  unfold sendArea; split <;> rfl
@[simp] theorem sendArea_errInfo (s : State) : (sendArea s).errInfo = s.errInfo := by
  unfold sendArea; split <;> rfl
@[simp] theorem sendArea_imgW (s : State) : (sendArea s).imgW = s.imgW := by
  unfold sendArea; split <;> rfl
@[simp] theorem sendArea_imgH (s : State) : (sendArea s).imgH = s.imgH := by
  unfold sendArea; split <;> rfl
@[simp] theorem sendArea_ksizeDefault (s : State) : (sendArea s).ksizeDefault = s.ksizeDefault := by
  unfold sendArea; split <;> rfl
@[simp] theorem sendArea_work (s : State) : (sendArea s).work = s.work := by
  unfold sendArea; split <;> rfl
@[simp] theorem sendArea_imem (s : State) : (sendArea s).imem = s.imem := by
  unfold sendArea; split <;> rfl
@[simp] theorem sendArea_omem (s : State) : (sendArea s).omem = s.omem := by
  unfold sendArea; split <;> rfl
@[simp] theorem sendArea_kmem (s : State) : (sendArea s).kmem = s.kmem := by
  unfold sendArea; split <;> rfl
@[simp] theorem sendArea_omemValid (s : State) : (sendArea s).omemValid = s.omemValid := by
  unfold sendArea; split <;> rfl
@[simp] theorem sendArea_genIn (s : State) : (sendArea s).genIn = s.genIn := by
  unfold sendArea; split <;> rfl
@[simp] theorem sendArea_inbox (s : State) : (sendArea s).inbox = s.inbox := by
  unfold sendArea; split <;> rfl
@[simp] theorem sendArea_rdata (s : State) : (sendArea s).rdata = s.rdata := by
  unfold sendArea; split <;> rfl
@[simp] theorem sendArea_fresh (s : State) : (sendArea s).fresh = s.fresh := by
  unfold sendArea; split <;> rfl

/-! `putCell` touches the kernel buffer and the phase only (R110). -/

@[simp] theorem putCell_mode (p : Weight) (s : State) : (putCell p s).mode = s.mode := by
  unfold putCell; split <;> rfl
@[simp] theorem putCell_errCode (p : Weight) (s : State) : (putCell p s).errCode = s.errCode := by
  unfold putCell; split <;> rfl
@[simp] theorem putCell_errX (p : Weight) (s : State) : (putCell p s).errX = s.errX := by
  unfold putCell; split <;> rfl
@[simp] theorem putCell_errY (p : Weight) (s : State) : (putCell p s).errY = s.errY := by
  unfold putCell; split <;> rfl
@[simp] theorem putCell_errInfo (p : Weight) (s : State) : (putCell p s).errInfo = s.errInfo := by
  unfold putCell; split <;> rfl
@[simp] theorem putCell_imgW (p : Weight) (s : State) : (putCell p s).imgW = s.imgW := by
  unfold putCell; split <;> rfl
@[simp] theorem putCell_imgH (p : Weight) (s : State) : (putCell p s).imgH = s.imgH := by
  unfold putCell; split <;> rfl
@[simp] theorem putCell_ksizeDefault (p : Weight) (s : State) : (putCell p s).ksizeDefault = s.ksizeDefault := by
  unfold putCell; split <;> rfl
@[simp] theorem putCell_imem (p : Weight) (s : State) : (putCell p s).imem = s.imem := by
  unfold putCell; split <;> rfl
@[simp] theorem putCell_omem (p : Weight) (s : State) : (putCell p s).omem = s.omem := by
  unfold putCell; split <;> rfl
@[simp] theorem putCell_kmem (p : Weight) (s : State) : (putCell p s).kmem = s.kmem := by
  unfold putCell; split <;> rfl
@[simp] theorem putCell_omemValid (p : Weight) (s : State) : (putCell p s).omemValid = s.omemValid := by
  unfold putCell; split <;> rfl
@[simp] theorem putCell_genOpen (p : Weight) (s : State) : (putCell p s).genOpen = s.genOpen := by
  unfold putCell; split <;> rfl
@[simp] theorem putCell_genOut (p : Weight) (s : State) : (putCell p s).genOut = s.genOut := by
  unfold putCell; split <;> rfl
@[simp] theorem putCell_genIn (p : Weight) (s : State) : (putCell p s).genIn = s.genIn := by
  unfold putCell; split <;> rfl
@[simp] theorem putCell_inbox (p : Weight) (s : State) : (putCell p s).inbox = s.inbox := by
  unfold putCell; split <;> rfl
@[simp] theorem putCell_rdata (p : Weight) (s : State) : (putCell p s).rdata = s.rdata := by
  unfold putCell; split <;> rfl
@[simp] theorem putCell_fresh (p : Weight) (s : State) : (putCell p s).fresh = s.fresh := by
  unfold putCell; split <;> rfl

@[simp] theorem sendArea_genOpen (s : State) : (sendArea s).genOpen = true := by
  unfold sendArea; split <;> simp_all

@[simp] theorem sendArea_genOut (s : State) : (sendArea s).genOut =
    if s.genOpen then s.genOut else s.genOut ++ [areaRecord s.work] := by
  unfold sendArea; split <;> rfl

/-- Every cell form appends one weight to the kernel buffer (R110). -/
@[simp] theorem putCell_ker (p : Weight) (s : State) :
    (putCell p s).work.ker = s.work.ker ++ [p] := by
  unfold putCell; split <;> rfl

end Sys2Proof.Machine
end

