-- ==== Sys2Proof/Laws/Ops.lean ====
section
/-! SUPPORT. What each shared operation can do, said once: the guard of a running pass, the choice of
the next operation, the exchange with the generator, the end of `WRITE`, the conversions. -/

namespace Sys2Proof.Machine

variable {s t : State}

/-! ### The guard of a running pass -/

theorem whenBusy_of_busy (h : s.mode = .busy) (o : Answer) : whenBusy s o = o := if_pos h

theorem whenBusy_of_not_busy (h : s.mode ≠ .busy) (o : Answer) : whenBusy s o = .next s := if_neg h

/-- A guarded operation that answers a next state ran in a pass, or did nothing. -/
theorem whenBusy_cases {o : Answer} (h : whenBusy s o = .next t) :
    s.mode = .busy ∧ o = .next t ∨ s.mode ≠ .busy ∧ t = s := by
  by_cases hb : s.mode = .busy
  · exact .inl ⟨hb, by rwa [whenBusy_of_busy hb] at h⟩
  · rw [whenBusy_of_not_busy hb] at h
    cases h
    exact .inr ⟨hb, rfl⟩

/-! ### The zero test (R121) -/

theorem zeroLanes_eq_zero (k : Lanes) : zeroLanes k = 0 ↔ k.r ≠ 0 ∧ k.g ≠ 0 ∧ k.b ≠ 0 := by
  have h : ∀ x y z : Bool, (BitVec.ofBool z ++ BitVec.ofBool y ++ BitVec.ofBool x = (0 : BitVec 3)) ↔
      x = false ∧ y = false ∧ z = false := by decide
  simp only [zeroLanes, h, beq_eq_false_iff_ne]

/-! ### Which operation comes next -/

/-- A cell's code is a cell. -/
theorem cellCode_some {read : Nat → Option Half} {k : Nat} {c : Code} (h : cellCode read k = some c) :
    ∃ tag v0 v1 v2 v3, c = .kcell tag v0 v1 v2 v3 ∧ read (1 + 5 * k) = some tag ∧
      read (2 + 5 * k) = some v0 ∧ read (3 + 5 * k) = some v1 ∧ read (4 + 5 * k) = some v2 ∧
      read (5 + 5 * k) = some v3 := by
  unfold cellCode at h
  split at h
  · cases h
    exact ⟨_, _, _, _, _, rfl, ‹_›, ‹_›, ‹_›, ‹_›, ‹_›⟩
  · cases h

/-- What a cell decodes to is a cell form. -/
theorem decodeCell_format {tag v0 v1 v2 v3 : Half} {i : Instr}
    (h : decodeCell tag v0 v1 v2 v3 = .ok i) : i.format = .kcell := by
  unfold decodeCell at h
  split_ifs at h <;> cases h <;> rfl

/-- What a command word decodes to is a command. -/
theorem decodeCmd_format {w : RegWord} {i : Instr} (h : decodeCmd w = .ok i) : i.format = .cmd := by
  unfold decodeCmd at h
  split_ifs at h <;> cases h <;> rfl

/-- The engine's turn: the state is as it was, and the operation is `IDLE`, the phase's, or the next
cell's; or the next cell is no operation. -/
theorem engineTurn_cases (s : State) :
    (s.mode ≠ .busy ∧ engineTurn s = .run .idle s) ∨
    (s.mode = .busy ∧ atCell s = false ∧ engineTurn s = .run (decodeSeq s.phase) s) ∨
    (s.mode = .busy ∧ atCell s = true ∧
      ((cellCode (recordHalf s) s.work.ker.length = none ∧
          engineTurn s = .settle (.fault .recordTooShort)) ∨
        ∃ tag v0 v1 v2 v3,
          cellCode (recordHalf s) s.work.ker.length = some (.kcell tag v0 v1 v2 v3) ∧
          ((∃ i, decodeCell tag v0 v1 v2 v3 = .ok i ∧ engineTurn s = .run i s) ∨
            (∃ why, decodeCell tag v0 v1 v2 v3 = .reject why ∧
              engineTurn s = .settle (.next (reservedCell s)))))) := by
  by_cases hb : s.mode = .busy
  · cases ha : atCell s
    · exact .inr (.inl ⟨hb, rfl, by simp [engineTurn, hb, ha]⟩)
    · refine .inr (.inr ⟨hb, rfl, ?_⟩)
      cases hc : cellCode (recordHalf s) s.work.ker.length with
      | none => exact .inl ⟨rfl, by simp [engineTurn, hb, ha, cellTurn, hc]⟩
      | some c =>
        obtain ⟨tag, v0, v1, v2, v3, rfl, -⟩ := cellCode_some hc
        refine .inr ⟨tag, v0, v1, v2, v3, rfl, ?_⟩
        cases hd : decodeCell tag v0 v1 v2 v3 with
        | ok i => exact .inl ⟨i, rfl, by simp [engineTurn, hb, ha, cellTurn, hc, decode, hd]⟩
        | reject why => exact .inr ⟨why, rfl, by simp [engineTurn, hb, ha, cellTurn, hc, decode, hd]⟩
  · exact .inl ⟨hb, by simp [engineTurn, hb]⟩

/-- A command word's turn: dropped, performed, or the error of an illegal word. -/
theorem commandTurn_cases (w : RegWord) (s : State) :
    (s.mode = .busy ∧ commandTurn w s = .settle (.next s)) ∨
    (s.mode ≠ .busy ∧ ∃ i, decodeCmd w = .ok i ∧ commandTurn w s = .run i s) ∨
    (s.mode ≠ .busy ∧ ∃ why, decodeCmd w = .reject why ∧
      commandTurn w s = .settle (.next (illegalCommand s))) := by
  by_cases hb : s.mode = .busy
  · exact .inl ⟨hb, by simp [commandTurn, hb]⟩
  · cases hd : decodeCmd w with
    | ok i => exact .inr (.inl ⟨hb, i, rfl, by simp [commandTurn, hb, decode, hd]⟩)
    | reject why => exact .inr (.inr ⟨hb, why, rfl, by simp [commandTurn, hb, decode, hd]⟩)

/-- A step with no event left is the engine's turn. -/
theorem plan_nil (h : s.inbox = []) : plan s = engineTurn s := by simp [plan, h]

/-- A step with an event performs it, on the state without it. -/
theorem plan_cons {e : Event} {later : List Event} (h : s.inbox = e :: later) :
    plan s = eventTurn e { s with inbox := later } := by simp [plan, h]

theorem step_of_run {i : Instr} {u : State} (h : plan s = .run i u) : step s = exec i u := by
  simp [step, h]

theorem step_of_settle {o : Answer} (h : plan s = .settle o) : step s = o := by
  simp [step, h]

/-! ### The exchange with the generator (R109) -/

/-- An answer that is complete: its header, and cells that are those it sent, exactly as many as the
Area asks for where the shape is the Area's. -/
theorem takeAnswer_some {rows cols : BitVec 8} {answer cells : List Half} {h : Half}
    (e : takeAnswer rows cols answer = some (h, cells)) :
    ∃ rest, answer = h :: rest ∧
      (headerRows h = rows → headerCols h = cols →
        cells = rest.take (5 * (rows.toNat * cols.toNat)) ∧
        cells.length = 5 * (rows.toNat * cols.toNat)) := by
  unfold takeAnswer at e
  split at e
  · cases e
  · rename_i h' rest
    split at e
    · split at e
      · cases e
        refine ⟨rest, rfl, fun _ _ => ⟨rfl, ?_⟩⟩
        simpa using ‹_›
      · cases e
    · rename_i hne
      cases e
      exact ⟨rest, rfl, fun h1 h2 => absurd ⟨h1, h2⟩ hne⟩

/-- The receiving half of an exchange: it waits, or the header is in and the exchange over. -/
theorem receiveRecord_cases (s : State) :
    (receiveRecord s = s ∧ ∀ answer later, s.genIn = answer :: later →
      takeAnswer s.work.rows s.work.cols answer = none) ∨
    ∃ answer later h cells, s.genIn = answer :: later ∧
      takeAnswer s.work.rows s.work.cols answer = some (h, cells) ∧
      receiveRecord s = takeHeader h (h :: cells) { s with genOpen := false, genIn := later } := by
  cases hg : s.genIn with
  | nil => exact .inl ⟨by simp [receiveRecord, hg], by simp⟩
  | cons answer later =>
    cases ht : takeAnswer s.work.rows s.work.cols answer with
    | none =>
      refine .inl ⟨by simp [receiveRecord, hg, ht], ?_⟩
      rintro _ _ e
      cases e
      exact ht
    | some p => exact .inr ⟨answer, later, p.1, p.2, rfl, ht, by simp [receiveRecord, hg, ht]⟩

/-! ### The scan (R144) -/

/-- The end of a coordinate: the next one, or completion at the last. -/
theorem advance_cases (s : State) :
    (∃ x y, nextPos s.work.latW.toNat s.work.latH.toNat s.work.curX.toNat s.work.curY.toNat =
        some (x, y) ∧
      advance s = { s with
        phase := 0b001
        work := { s.work with curX := BitVec.ofNat 16 x, curY := BitVec.ofNat 16 y } }) ∨
    (nextPos s.work.latW.toNat s.work.latH.toNat s.work.curX.toNat s.work.curY.toNat = none ∧
      advance s = complete s) := by
  unfold advance
  cases nextPos s.work.latW.toNat s.work.latH.toNat s.work.curX.toNat s.work.curY.toNat with
  | none => exact .inr ⟨rfl, rfl⟩
  | some c => exact .inl ⟨c.1, c.2, rfl, rfl⟩

/-- From a coordinate of the image the scan goes to the coordinate one further in raster order, and
ends where there is none. -/
theorem nextPos_spec {W H x y : Nat} (hx : x < W) (hy : y < H) :
    (∃ x' y', nextPos W H x y = some (x', y') ∧ x' < W ∧ y' < H ∧ y' * W + x' = y * W + x + 1) ∨
    (nextPos W H x y = none ∧ x + 1 = W ∧ y + 1 = H) := by
  unfold nextPos
  split_ifs with h1 h2
  · exact .inl ⟨_, _, rfl, h1, hy, by omega⟩
  · refine .inl ⟨_, _, rfl, by omega, h2, ?_⟩
    rw [Nat.add_mul]
    omega
  · exact .inr ⟨rfl, by omega, by omega⟩

/-! ### Conversions and words -/

/-- The stored channel is the clamped quotient (R130). -/
theorem clamp8_toNat (v : Int) : ((clamp8 v).toNat : Int) = max 0 (min 255 v) := by
  unfold clamp8
  rw [BitVec.toNat_ofInt]
  omega

/-- Concatenation (R6) as a number. -/
theorem append_toNat {m n : Nat} (x : BitVec m) (y : BitVec n) :
    (x ++ y).toNat = x.toNat * 2 ^ n + y.toNat := by
  rw [BitVec.toNat_append, ← Nat.shiftLeft_add_eq_or_of_lt y.isLt, Nat.shiftLeft_eq]

theorem configInfo_toNat (sub : BitVec 8) (cell : BitVec 16) :
    (configInfo sub cell).toNat = cell.toNat * 65536 + sub.toNat := by
  simp only [configInfo, append_toNat, BitVec.toNat_ofNat]
  omega

theorem shapeInfo_toNat (rows cols krows kcols : BitVec 8) :
    (shapeInfo rows cols krows kcols).toNat =
      cols.toNat * 2 ^ 24 + rows.toNat * 2 ^ 16 + kcols.toNat * 2 ^ 8 + krows.toNat := by
  simp only [shapeInfo, append_toNat]
  omega

theorem sourceInfo_toNat (tag : BitVec 4) (wZero hZero : Bool) :
    (sourceInfo tag wZero hZero).toNat =
      tag.toNat + (if wZero then 256 else 0) + (if hZero then 512 else 0) := by
  revert tag wZero hZero
  decide

/-- The fields of a `STATUS` word (R12). -/
theorem statusWord_fields (m : Mode) (p : BitVec 3) :
    (statusWord m p).getLsbD 0 = (m == .busy) ∧ (statusWord m p).getLsbD 1 = (m == .done) ∧
    (statusWord m p).getLsbD 2 = (m == .error) ∧ (statusWord m p).getLsbD 3 = false ∧
    (statusWord m p).extractLsb' 4 3 = p ∧ (statusWord m p).extractLsb' 7 25 = 0 := by
  revert p
  cases m <;> decide

/-- The unspecified phase is never `IDLE` (R12). -/
theorem unspecifiedPhase_ne_zero (n : Nat) : unspecifiedPhase n ≠ 0 := by
  intro h
  have h' := congrArg BitVec.toNat h
  have := (Config.freePhase n).isLt
  simp only [unspecifiedPhase, BitVec.toNat_ofNat, BitVec.ofNat_eq_ofNat] at h'
  omega

end Sys2Proof.Machine
end

