-- ==== Sys2Proof/Laws/Cells.lean ====
section
/-! SUPPORT. The kernel record, cell by cell (30_encoding.md R68, 42_kernel_resolution.md R110): what
one cell decodes to and does, and how the loop over the cells grows its kernel. -/

namespace Sys2Proof.Machine

/-- The record a coordinate reads depends on `KMEM`, the kernel source and the record register alone. -/
theorem recordOf_congr {kmem : List (Nat × Half)} {w w' : Work} (hk : w'.latKsrc = w.latKsrc)
    (hr : w'.krec = w.krec) : recordOf kmem w' = recordOf kmem w := by
  funext i
  simp only [recordOf, hk, hr]

/-- `MKPIXEL` and the decoder agree: both refuse the tag, or the cell decodes to the form that puts
exactly the Pixel `MKPIXEL` builds. -/
theorem decodeCell_cases (tag v0 v1 v2 v3 : Half) :
    (mkPixel tag v0 v1 v2 v3 = none ∧ decodeCell tag v0 v1 v2 v3 = .reject .reservedTag) ∨
    ∃ p i, mkPixel tag v0 v1 v2 v3 = some p ∧ decodeCell tag v0 v1 v2 v3 = .ok i ∧
      ∀ s : State, s.mode = .busy → exec i s = .next (putCell p s) := by
  by_cases h : tag.toNat ≤ 4
  · obtain ⟨k, hk, rfl⟩ : ∃ k : Nat, k ≤ 4 ∧ tag = BitVec.ofNat 16 k := ⟨tag.toNat, h, by simp⟩
    right
    interval_cases k <;> exact ⟨_, _, rfl, rfl, fun s hb => if_pos hb⟩
  · left
    constructor
    · unfold mkPixel
      split <;> first | rfl | omega
    · unfold decodeCell
      split_ifs <;> first | rfl | (subst_vars; exact absurd h (by decide))

/-- The kernel of `n` cells has `n` weights. -/
theorem expandCells_length {read : Nat → Option Half} {n : Nat} :
    ∀ {k : Nat} {ker : List Weight}, expandCells read k n = .kernel ker → ker.length = n := by
  induction n with
  | zero => rintro k ker h; cases h; rfl
  | succ n ih =>
    intro k ker h
    unfold expandCells at h
    split at h
    · split at h
      · cases h
      · cases hr : expandCells read (k + 1) n with
        | kernel rest => rw [hr] at h; cases h; simp [ih hr]
        | reserved _ => rw [hr] at h; cases h
        | short => rw [hr] at h; cases h
    · cases h

/-- One more cell at the end: the kernel grows by the Pixel of that cell. -/
theorem expandCells_snoc {read : Nat → Option Half} {tag v0 v1 v2 v3 : Half} {p : Weight} {n : Nat} :
    ∀ {k : Nat} {ker : List Weight}, expandCells read k n = .kernel ker →
      cellCode read (k + n) = some (.kcell tag v0 v1 v2 v3) → mkPixel tag v0 v1 v2 v3 = some p →
      expandCells read k (n + 1) = .kernel (ker ++ [p]) := by
  induction n with
  | zero =>
    rintro k ker h hc hp
    cases h
    simp_all [expandCells, consCell]
  | succ n ih =>
    intro k ker h hc hp
    unfold expandCells at h ⊢
    split at h
    · split at h
      · cases h
      · cases hr : expandCells read (k + 1) n with
        | kernel rest =>
          have hs := ih hr (by rw [← hc]; congr 1; omega) hp
          rw [hr] at h
          cases h
          simp only [*, consCell, List.cons_append]
        | reserved _ => rw [hr] at h; cases h
        | short => rw [hr] at h; cases h
    · cases h

end Sys2Proof.Machine
end

