-- ==== Sys2Proof/Laws/Memory.lean ====
section
/-! SUPPORT. The laws of a memory: read after write, the canonical form kept, equal contents equal
data; and those of one pixel's store. -/

namespace Sys2Proof.Machine

variable {w : Nat}

@[simp] theorem memory_get_nil (a : Nat) : Memory.get ([] : List (Nat × BitVec w)) a = none := rfl

/-- A read after a write to the same address gives the value written. -/
@[simp] theorem memory_get_set_same (m : List (Nat × BitVec w)) (a : Nat) (v : BitVec w) :
    Memory.get (Memory.set m a v) a = some v := by
  induction m with
  | nil => simp [Memory.set, Memory.get]
  | cons p rest ih =>
    obtain ⟨b, u⟩ := p
    simp only [Memory.set]
    split
    · simp [Memory.get]
    · split
      · simp [Memory.get]
      · rename_i h1 h2
        simp [Memory.get, h2, ih]

/-- A write leaves every other address alone. -/
theorem memory_get_set_other (m : List (Nat × BitVec w)) {a b : Nat} (v : BitVec w) (h : b ≠ a) :
    Memory.get (Memory.set m a v) b = Memory.get m b := by
  induction m with
  | nil => simp [Memory.set, Memory.get, h]
  | cons p rest ih =>
    obtain ⟨c, u⟩ := p
    simp only [Memory.set]
    split
    · simp [Memory.get, h]
    · split
      · rename_i h1 h2
        subst h2
        simp [Memory.get, h]
      · simp [Memory.get, ih]

/-- Both laws of a write in one. -/
theorem memory_get_set (m : List (Nat × BitVec w)) (a b : Nat) (v : BitVec w) :
    Memory.get (Memory.set m a v) b = if b = a then some v else Memory.get m b := by
  by_cases h : b = a
  · subst h; simp
  · simp [h, memory_get_set_other m v h]

/-- An address a write leaves listed is the one written or was listed before. -/
theorem memory_mem_set {m : List (Nat × BitVec w)} {a : Nat} {v : BitVec w} {p : Nat × BitVec w}
    (h : p ∈ Memory.set m a v) : p = (a, v) ∨ p ∈ m := by
  induction m with
  | nil => simpa [Memory.set] using h
  | cons q rest ih =>
    obtain ⟨c, u⟩ := q
    simp only [Memory.set] at h
    split at h
    · simpa using h
    · split at h
      · simp only [List.mem_cons] at h ⊢
        tauto
      · simp only [List.mem_cons] at h ⊢
        rcases h with h | h
        · tauto
        · rcases ih h with h | h <;> tauto

/-- A write keeps the canonical form. -/
theorem memory_set_wf {m : List (Nat × BitVec w)} (h : Memory.wf m) (a : Nat) (v : BitVec w) :
    Memory.wf (Memory.set m a v) := by
  induction m with
  | nil => simp [Memory.wf, Memory.set]
  | cons q rest ih =>
    obtain ⟨c, u⟩ := q
    obtain ⟨hc, hrest⟩ := List.pairwise_cons.mp h
    simp only [Memory.set]
    split
    · rename_i hlt
      refine List.pairwise_cons.mpr ⟨?_, h⟩
      intro p hp
      rcases List.mem_cons.mp hp with rfl | hp
      · exact hlt
      · exact hlt.trans (hc p hp)
    · split
      · rename_i h1 h2
        subst h2
        exact List.pairwise_cons.mpr ⟨hc, hrest⟩
      · rename_i h1 h2
        refine List.pairwise_cons.mpr ⟨?_, ih hrest⟩
        intro p hp
        rcases memory_mem_set hp with rfl | hp
        · simp only; omega
        · exact hc p hp

/-- An address below all those listed holds nothing. -/
theorem memory_get_below {m : List (Nat × BitVec w)} {a : Nat} (h : ∀ p ∈ m, a < p.1) :
    Memory.get m a = none := by
  induction m with
  | nil => rfl
  | cons q rest ih =>
    obtain ⟨c, u⟩ := q
    have hc : a < c := h (c, u) (by simp)
    simp only [Memory.get, if_neg (Nat.ne_of_lt hc)]
    exact ih fun p hp => h p (by simp [hp])

/-- Two memories in canonical form that hold the same are the same data. -/
theorem memory_ext {m n : List (Nat × BitVec w)} (hm : Memory.wf m) (hn : Memory.wf n)
    (h : ∀ a, Memory.get m a = Memory.get n a) : m = n := by
  induction m generalizing n with
  | nil =>
    cases n with
    | nil => rfl
    | cons q rest =>
      have := h q.1
      simp [Memory.get] at this
  | cons p rest ih =>
    obtain ⟨a, v⟩ := p
    obtain ⟨ha, hrest⟩ := List.pairwise_cons.mp hm
    cases n with
    | nil =>
      have := h a
      simp [Memory.get] at this
    | cons q rest' =>
      obtain ⟨b, u⟩ := q
      obtain ⟨hb, hrest'⟩ := List.pairwise_cons.mp hn
      have hab : a = b := by
        rcases Nat.lt_trichotomy a b with hlt | heq | hlt
        · have h1 := h a
          rw [memory_get_below (m := (b, u) :: rest') (a := a) ?_] at h1
          · simp [Memory.get] at h1
          · intro p hp
            rcases List.mem_cons.mp hp with rfl | hp
            · exact hlt
            · exact hlt.trans (hb p hp)
        · exact heq
        · have h1 := h b
          rw [memory_get_below (m := (a, v) :: rest) (a := b) ?_] at h1
          · simp [Memory.get] at h1
          · intro p hp
            rcases List.mem_cons.mp hp with rfl | hp
            · exact hlt
            · exact hlt.trans (ha p hp)
      subst hab
      have hvu : v = u := by simpa [Memory.get] using h a
      subst hvu
      congr 1
      refine ih hrest hrest' fun c => ?_
      by_cases hc : c = a
      · subst hc
        rw [memory_get_below ha, memory_get_below hb]
      · simpa [Memory.get, hc] using h c

/-- The store of a pixel keeps the canonical form. -/
theorem storePixel_wf {m : List Host.Cell} (h : Memory.wf m) (off : Nat) (p : Sample) :
    Memory.wf (storePixel m off p) :=
  memory_set_wf (memory_set_wf (memory_set_wf (memory_set_wf h _ _) _ _) _ _) _ _

/-- What a pixel's store leaves at each address: its four bytes, all else as before (R131). -/
theorem storePixel_get (m : List Host.Cell) (off : Nat) (p : Sample) (a : Nat) :
    Memory.get (storePixel m off p) a =
      if a = off then some p.r else if a = off + 1 then some p.g
      else if a = off + 2 then some p.b else if a = off + 3 then some p.a
      else Memory.get m a := by
  simp only [storePixel, memory_get_set]
  split_ifs <;> first | rfl | omega

end Sys2Proof.Machine
end

