-- ==== Sys2Proof/Laws/PerInstr.lean ====
section
/-! SUPPORT. Statements made for every operation, one lemma a constructor. The family
`EncodingFitsOneRow`: the code of an operation hits exactly one row of its format's table (R62, R69,
R75). -/

namespace Sys2Proof.Laws.EncodingFitsOneRow

open Sys2Proof

/-- The rows of a table a word hits. -/
def hits {n : Nat} (rows : List (Row n)) (w : BitVec n) : List (Row n) :=
  rows.filter fun row => rowHits row w

/-- The operation's code is of its format, and hits one row. -/
def Statement (i : Instr) : Prop :=
  match encode i with
  | .cmd w => i.format = .cmd ∧ (hits cmdRows w).length = 1
  | .kcell tag _ _ _ _ => i.format = .kcell ∧ (hits kcellRows tag).length = 1
  | .seq c => i.format = .seq ∧ (hits seqRows c).length = 1

theorem nop : Statement .nop := ⟨rfl, by decide⟩

/-- A `CONVOLVE` word shows its row through the mask, whatever its fields (R61). -/
theorem convolveWord_masked (srcTag : BitVec 4) (ksrc : KernelSource) (sizeValid : Bool)
    (size : BitVec 8) : convolveWord srcTag ksrc sizeValid size &&& 0xFF00FC0F = 1 := by
  apply BitVec.eq_of_getLsbD_eq
  intro i hi
  simp only [convolveWord, BitVec.getLsbD_and, BitVec.getLsbD_append]
  interval_cases i <;> simp

theorem convolve (srcTag : BitVec 4) (ksrc : KernelSource) (sizeValid : Bool) (size : BitVec 8) :
    Statement (.convolve srcTag ksrc sizeValid size) := by
  have hm := convolveWord_masked srcTag ksrc sizeValid size
  have h0 : convolveWord srcTag ksrc sizeValid size ≠ 0 := by
    intro h
    rw [h] at hm
    exact absurd hm (by decide)
  have h2 : convolveWord srcTag ksrc sizeValid size ≠ 2 := by
    intro h
    rw [h] at hm
    exact absurd hm (by decide)
  have e : ∀ w : RegWord, w &&& 0xFFFFFFFF = w := fun w => by
    simpa using BitVec.and_allOnes (x := w)
  refine ⟨rfl, ?_⟩
  simp only [hits, cmdRows, nopRow, convolveRow, ackRow, rowHits, List.filter_cons, e, hm,
    beq_iff_eq, h0, h2]
  rfl

theorem ack : Statement .ack := ⟨rfl, by decide⟩
theorem pixel0 : Statement .pixel0 := ⟨rfl, by decide⟩
theorem scalar (n : Half) : Statement (.scalar n) := ⟨rfl, by decide⟩
theorem pixel2 (n a : Half) : Statement (.pixel2 n a) := ⟨rfl, by decide⟩
theorem pixel3 (r g b : Half) : Statement (.pixel3 r g b) := ⟨rfl, by decide⟩
theorem pixel4 (r g b a : Half) : Statement (.pixel4 r g b a) := ⟨rfl, by decide⟩
theorem idle : Statement .idle := ⟨rfl, by decide⟩
theorem collect : Statement .collect := ⟨rfl, by decide⟩
theorem kresolve : Statement .kresolve := ⟨rfl, by decide⟩
theorem kcheck : Statement .kcheck := ⟨rfl, by decide⟩
theorem ksum : Statement .ksum := ⟨rfl, by decide⟩
theorem mac : Statement .mac := ⟨rfl, by decide⟩
theorem norm : Statement .norm := ⟨rfl, by decide⟩
theorem write : Statement .write := ⟨rfl, by decide⟩

end Sys2Proof.Laws.EncodingFitsOneRow
end

