-- ==== Sys2Proof/Laws/Sums.lean ====
section
/-! SUPPORT. The 48-bit sums and quotients as integers (R120, R122, R124): lane by lane, a sum whose
terms are bounded is exact. -/

namespace Sys2Proof.Machine

/-- A weight as a lane's term (R120). -/
theorem weight_toInt (k : Half) : (k.signExtend 48).toInt = k.toInt :=
  BitVec.toInt_signExtend_of_le (by decide)

theorem weight_abs_le (k : Half) : |k.toInt| ≤ 32768 := by
  have := BitVec.toInt_lt (x := k)
  have := BitVec.le_toInt (x := k)
  rw [abs_le]
  omega

/-- A product is exact in 25 bits, and as a lane's term (R122). -/
theorem product_toInt (p : Byte) (k : Half) :
    ((product p k).signExtend 48).toInt = (p.toNat : Int) * k.toInt := by
  have hp := p.isLt
  have hk := abs_le.mp (weight_abs_le k)
  have h1 : (p.setWidth 25).toInt = p.toNat := by
    rw [BitVec.toInt_setWidth, Int.bmod_eq_of_le] <;> omega
  have h2 : (p.toNat : Int) ≤ 255 := by omega
  have h3 : (0 : Int) ≤ p.toNat := by omega
  have h4 : (p.toNat : Int) * k.toInt ≤ 255 * 32768 := by nlinarith
  have h5 : -(255 * 32768) ≤ (p.toNat : Int) * k.toInt := by nlinarith
  rw [BitVec.toInt_signExtend_of_le (by decide), product, BitVec.toInt_mul,
    BitVec.toInt_signExtend_of_le (by decide), h1, Int.bmod_eq_of_le] <;> omega

theorem product_abs_le (p : Byte) (k : Half) : |(p.toNat : Int) * k.toInt| ≤ 8355840 := by
  have hp := p.isLt
  have hk := abs_le.mp (weight_abs_le k)
  have h2 : (p.toNat : Int) ≤ 255 := by omega
  have h3 : (0 : Int) ≤ p.toNat := by omega
  rw [abs_le]
  constructor <;> nlinarith

/-- A sum of terms bounded by `B` is bounded by `B` for each term. -/
theorem abs_sum_le {α : Type} (f : α → Int) (B : Int) (l : List α) (hf : ∀ x ∈ l, |f x| ≤ B) :
    |(l.map f).sum| ≤ l.length * B := by
  induction l with
  | nil => simp
  | cons x l ih =>
    have h1 := abs_add_le (f x) (l.map f).sum
    have h2 := hf x (by simp)
    have h3 := ih fun y hy => hf y (by simp [hy])
    simp only [List.map_cons, List.sum_cons, List.length_cons]
    push_cast
    linarith

/-- A lane's running sum is exact while the bound on its terms keeps it inside 48 bits. -/
theorem laneSum_toInt {α : Type} (f : α → BitVec 48) (B : Int) (hB : 0 ≤ B) (l : List α)
    (hf : ∀ x ∈ l, |(f x).toInt| ≤ B) (acc : BitVec 48)
    (h : |acc.toInt| + l.length * B < 2 ^ 47) :
    (l.foldl (fun a x => a + f x) acc).toInt = acc.toInt + (l.map fun x => (f x).toInt).sum := by
  induction l generalizing acc with
  | nil => simp
  | cons x l ih =>
    have hx := hf x (by simp)
    have hn : (0 : Int) ≤ l.length * B := by positivity
    rw [List.length_cons] at h
    push_cast at h
    have hsum := abs_add_le acc.toInt (f x).toInt
    have e : (acc + f x).toInt = acc.toInt + (f x).toInt := by
      have := abs_lt.mp (show |acc.toInt + (f x).toInt| < 2 ^ 47 by nlinarith)
      rw [BitVec.toInt_add, Int.bmod_eq_of_le] <;> omega
    simp only [List.foldl_cons, List.map_cons, List.sum_cons]
    rw [ih (fun y hy => hf y (by simp [hy])) _ (by rw [e]; nlinarith), e]
    ring

/-- The kernel sums lane by lane. -/
theorem ksumOf_lanes (ker : List Weight) :
    ksumOf ker = ⟨ker.foldl (fun a k => a + k.r.signExtend 48) 0,
      ker.foldl (fun a k => a + k.g.signExtend 48) 0,
      ker.foldl (fun a k => a + k.b.signExtend 48) 0⟩ := by
  have h : ∀ acc : Lanes, ker.foldl ksumStep acc =
      ⟨ker.foldl (fun a k => a + k.r.signExtend 48) acc.r,
        ker.foldl (fun a k => a + k.g.signExtend 48) acc.g,
        ker.foldl (fun a k => a + k.b.signExtend 48) acc.b⟩ := by
    induction ker with
    | nil => intro acc; rfl
    | cons k l ih => intro acc; simp [ih, ksumStep]
  exact h _

/-- The weighted sums lane by lane. -/
theorem asumOf_lanes (win : List Sample) (ker : List Weight) :
    asumOf win ker =
      ⟨(win.zip ker).foldl (fun a c => a + (product c.1.r c.2.r).signExtend 48) 0,
        (win.zip ker).foldl (fun a c => a + (product c.1.g c.2.g).signExtend 48) 0,
        (win.zip ker).foldl (fun a c => a + (product c.1.b c.2.b).signExtend 48) 0⟩ := by
  have h : ∀ (l : List (Sample × Weight)) (acc : Lanes), l.foldl macStep acc =
      ⟨l.foldl (fun a c => a + (product c.1.r c.2.r).signExtend 48) acc.r,
        l.foldl (fun a c => a + (product c.1.g c.2.g).signExtend 48) acc.g,
        l.foldl (fun a c => a + (product c.1.b c.2.b).signExtend 48) acc.b⟩ := by
    intro l
    induction l with
    | nil => intro acc; rfl
    | cons k l ih => intro acc; simp [ih, macStep]
  exact h _ _

/-- The quotient of a sum inside R123's bound is exact (R124). -/
theorem quotient_toInt (a k : BitVec 48) (ha : |a.toInt| < 2 ^ 39) :
    (quotient a k).toInt = Int.tdiv a.toInt k.toInt := by
  have h1 : (Int.tdiv a.toInt k.toInt).natAbs ≤ a.toInt.natAbs := by
    rw [Int.natAbs_tdiv]
    exact Nat.div_le_self _ _
  have h2 := abs_lt.mp ha
  unfold quotient tdiv
  rw [BitVec.toInt_ofInt, Int.bmod_eq_of_le] <;> omega

end Sys2Proof.Machine
end

