-- ==== Sys2Proof/Laws/Window.lean ====
section
/-! SUPPORT. The window of a coordinate: which coordinates it has, that all of them can be sampled,
and which sample stands where (R96, R97). -/

namespace Sys2Proof.Machine

theorem boxCoords_length (b : Box) : (boxCoords b).length = boxRows b * boxCols b := by
  simp [boxCoords, List.length_flatMap]

theorem mem_boxCoords {b : Box} {c : Nat × Nat} :
    c ∈ boxCoords b ↔ ∃ i j, i < boxRows b ∧ j < boxCols b ∧ c = (b.left + j, b.top + i) := by
  simp only [boxCoords, List.mem_flatMap, List.mem_range, List.mem_map]
  constructor
  · rintro ⟨i, hi, j, hj, rfl⟩
    exact ⟨i, j, hi, hj, rfl⟩
  · rintro ⟨i, j, hi, hj, rfl⟩
    exact ⟨i, hi, j, hj, rfl⟩

/-- Row-major order: entry `i*C + j` of `R` rows of `C` entries is entry `j` of row `i`. -/
theorem rowMajor_get {α : Type} (f : Nat → Nat → α) {R C i j : Nat} (hi : i < R) (hj : j < C) :
    ((List.range R).flatMap fun i => (List.range C).map fun j => f i j)[i * C + j]? =
      some (f i j) := by
  induction R with
  | zero => omega
  | succ R ih =>
    have hlen : ((List.range R).flatMap fun i => (List.range C).map fun j => f i j).length =
        R * C := by
      simp [List.length_flatMap]
    rw [List.range_succ, List.flatMap_append, List.getElem?_append, hlen]
    by_cases h : i < R
    · have : (i + 1) * C ≤ R * C := Nat.mul_le_mul_right C h
      rw [Nat.add_mul] at this
      rw [if_pos (by omega)]
      exact ih h
    · obtain rfl : i = R := by omega
      rw [if_neg (by omega), Nat.add_sub_cancel_left]
      simp [hj]

/-- Where each single one succeeds, a list of optional values is a list of values, in order. -/
theorem mapM_some_of_forall {α β : Type} (f : α → Option β) (l : List α)
    (h : ∀ x ∈ l, (f x).isSome) :
    ∃ ys : List β, l.mapM f = some ys ∧ ys.length = l.length ∧
      ∀ (n : Nat) (x : α), l[n]? = some x → ys[n]? = f x := by
  induction l with
  | nil => exact ⟨[], rfl, rfl, by simp⟩
  | cons a l ih =>
    obtain ⟨ys, h1, h2, h3⟩ := ih fun x hx => h x (by simp [hx])
    obtain ⟨b, hb⟩ := Option.isSome_iff_exists.mp (h a (by simp))
    refine ⟨b :: ys, by simp [List.mapM_cons, hb, h1], by simp [h2], ?_⟩
    rintro (_ | n) x hx
    · simp only [List.getElem?_cons_zero, Option.some.injEq] at hx
      subst hx
      simp [hb]
    · simpa using h3 n x (by simpa using hx)

/-- The clamped box is inside the image and holds the centre (R96, R21). -/
theorem areaBox_inside {W H half x y : Nat} (hx : x < W) (hy : y < H) :
    (areaBox W H half x y).left ≤ x ∧ x ≤ (areaBox W H half x y).right ∧
    (areaBox W H half x y).right < W ∧ (areaBox W H half x y).top ≤ y ∧
    y ≤ (areaBox W H half x y).bottom ∧ (areaBox W H half x y).bottom < H := by
  simp only [areaBox]
  omega

/-- At a coordinate of the image the window can be sampled, and sample `(i, j)` is the pixel at
`(left + j, top + i)`. -/
theorem sampleWindow_some (imem : List Host.Cell) {W H half x y : Nat} (hx : x < W) (hy : y < H) :
    ∃ px, sampleWindow imem W H (areaBox W H half x y) = some px ∧
      px.length = boxRows (areaBox W H half x y) * boxCols (areaBox W H half x y) ∧
      ∀ i j, i < boxRows (areaBox W H half x y) → j < boxCols (areaBox W H half x y) →
        px[i * boxCols (areaBox W H half x y) + j]? =
          getPixel imem W H ((areaBox W H half x y).left + j)
            ((areaBox W H half x y).top + i) := by
  obtain ⟨h1, h2, h3, h4, h5, h6⟩ := areaBox_inside (half := half) hx hy
  obtain ⟨px, e1, e2, e3⟩ := mapM_some_of_forall (fun c => getPixel imem W H c.1 c.2)
    (boxCoords (areaBox W H half x y)) fun c hc => by
      obtain ⟨i, j, hi, hj, rfl⟩ := mem_boxCoords.mp hc
      simp only [boxRows] at hi
      simp only [boxCols] at hj
      have : (areaBox W H half x y).left + j < W ∧ (areaBox W H half x y).top + i < H := by omega
      simp [getPixel, offset, this]
  refine ⟨px, e1, by rw [e2, boxCoords_length], fun i j hi hj => ?_⟩
  exact e3 _ _ (rowMajor_get (fun i j => ((areaBox W H half x y).left + j,
    (areaBox W H half x y).top + i)) hi hj)

end Sys2Proof.Machine
end

