-- ==== Sys2Proof/Tests/Slice0.lean ====
section
/-! SUPPORT. Tests: ill-formed terms are refused; words written out from the spec's encodings decode
to their operations; each row of the opcode table runs first after reset; one or two steps of each
operation against the values of 95_test_vectors.md; and for every statement of
Certificates/Slice0/Obligations.lean that has hypotheses, a state and operands that meet them. -/

namespace Sys2Proof.Tests

open Sys2Proof Sys2Proof.Machine

/-! ## Helpers -/

/-- What `f` says of the next state, if there is one. -/
def nextOf {α : Type} (f : State → α) : Answer → Option α
  | .next t => some (f t)
  | .fault _ => none
  | .refused _ => none

/-- Bytes from address `a` on. -/
def cellsFrom {w : Nat} (a : Nat) : List (BitVec w) → List (Nat × BitVec w)
  | [] => []
  | v :: vs => (a, v) :: cellsFrom (a + 1) vs

/-- A running pass. -/
def busyAt (phase : BitVec 3) (w : Work) : State :=
  { State.reset with mode := .busy, phase := phase, work := w }

/-- A pass over a `W` by `H` image at `(x, y)`. -/
def scanAt (W H x y : BitVec 16) (size : BitVec 8) : Work :=
  { Work.reset with
    latW := W
    latH := H
    latSize := size
    latHalf := halfOfSize size
    curX := x
    curY := y }

/-- The input of program P1 (95_test_vectors.md). -/
def p1Image : List Host.Cell := cellsFrom 0
  [0x0A, 0x64, 0x00, 0x80, 0x14, 0x64, 0x07, 0x80, 0x1E, 0x64, 0x0E, 0x80,
   0x28, 0x64, 0x15, 0x80, 0x32, 0x64, 0x1C, 0x80, 0x3C, 0x64, 0x23, 0x80,
   0x46, 0x64, 0x2A, 0x80, 0x50, 0x64, 0x31, 0x80, 0x5A, 0x64, 0x38, 0x80]

/-- The state of program P9 at its start, as far as its first commands read it: `DONE`. -/
def doneState : State := { State.reset with mode := .done, omemValid := true }

/-- A state `ERROR` with a record. -/
def errorState : State :=
  { State.reset with mode := .error, errCode := .kernelShape, errInfo := 0x02020303 }

/-- A one-pixel image `(10, 20, 30, 40)` with the kernel record of program P2. -/
def onePixel : State :=
  { State.reset with
    imem := cellsFrom 0 [10, 20, 30, 40]
    kmem := cellsFrom 0 [0x0101, 1, 1, 0, 0, 0]
    imgW := 1
    imgH := 1 }

/-- Its pass just accepted. -/
def onePixelStart : State := { onePixel with mode := .busy, phase := 0b001 }

/-- The same with the generator, which will answer as `KMEM` holds. -/
def onePixelGenStart : State :=
  { onePixelStart with
    work := { Work.reset with latKsrc := .generator }
    genIn := [[0x0101, 1, 1, 0, 0, 0]] }

/-- Its pass at `KCHECK`. -/
def onePixelCheck : State :=
  { onePixelStart with
    phase := 0b011
    work := { Work.reset with krows := 1, kcols := 1, win := [⟨10, 20, 30, 40⟩] } }

/-- Its pass at `WRITE`. -/
def onePixelWrite : State :=
  { onePixelStart with
    phase := 0b111
    work := { Work.reset with
      krows := 1
      kcols := 1
      win := [⟨10, 20, 30, 40⟩]
      ker := [⟨1, 1, 1, 255⟩]
      ksum := ⟨1, 1, 1⟩
      asum := ⟨10, 20, 30⟩
      quot := ⟨10, 20, 30⟩ } }

/-! ## WellFormed: an ill-formed term for each check (R68, R69, R71, R72) -/

theorem test_record_empty : kernelRecordWellFormed [] = false := by decide
theorem test_record_short : kernelRecordWellFormed [0x0101, 1, 1, 0, 0] = false := by decide
theorem test_record_long : kernelRecordWellFormed [0x0101, 1, 1, 0, 0, 0, 0] = false := by decide
theorem test_record_tag : kernelRecordWellFormed [0x0101, 5, 1, 0, 0, 0] = false := by decide
theorem test_record_second_tag :
    kernelRecordWellFormed [0x0201, 1, 1, 0, 0, 0, 5, 0, 0, 0, 0] = false := by decide
/-- The record of program P2. -/
theorem test_record_good : kernelRecordWellFormed [0x0101, 1, 1, 0, 0, 0] = true := by decide
theorem test_area_left : areaRecordWellFormed [1, 0, 1, 0, 0, 0, 1, 2, 3, 4] = false := by decide
theorem test_area_right : areaRecordWellFormed [0, 0, 0, 0, 1, 0, 1, 2, 3, 4] = false := by decide
theorem test_area_top : areaRecordWellFormed [0, 1, 0, 1, 0, 0, 1, 2, 3, 4] = false := by decide
theorem test_area_bottom : areaRecordWellFormed [0, 0, 0, 0, 0, 1, 1, 2, 3, 4] = false := by decide
theorem test_area_short : areaRecordWellFormed [0, 0, 0, 0, 0, 0, 1, 2, 3] = false := by decide
theorem test_area_no_centre : areaRecordWellFormed [0, 0, 0, 0] = false := by decide
/-- The 22 beats of program P1's first exchange. -/
theorem test_area_good : areaRecordWellFormed
    [0, 0, 1, 1, 0, 0, 0x0A, 0x64, 0, 0x80, 0x14, 0x64, 7, 0x80, 0x28, 0x64, 0x15, 0x80,
      0x32, 0x64, 0x1C, 0x80] = true := by decide

/-! ## Decoding: a word for each constructor, bit by bit (R61, R62, R69, R75) -/

theorem test_decode_nop : decode (.cmd 0b00000000000000000000000000000000) = .ok .nop := by decide
theorem test_decode_ack : decode (.cmd 0b00000000000000000000000000000010) = .ok .ack := by decide
/-- `SIZE` 23:16 = 5, `SIZE_VALID` bit 9, `KSRC` bit 8 = 0, `SRC_TAG` 7:4 = 1, `OP` 1. -/
theorem test_decode_convolve : decode (.cmd 0b00000000000001010000001000010001) =
    .ok (.convolve 1 .static true 5) := by decide
/-- `KSRC` bit 8 alone. -/
theorem test_decode_convolve_gen : decode (.cmd 0b00000000000000000000000100000001) =
    .ok (.convolve 0 .generator false 0) := by decide
theorem test_decode_op3 : decode (.cmd 0x00000003) = .reject .illegalCommand := by decide
theorem test_decode_op15 : decode (.cmd 0x0000000F) = .reject .illegalCommand := by decide
theorem test_decode_bit10 : decode (.cmd 0x00000401) = .reject .illegalCommand := by decide
theorem test_decode_bit15 : decode (.cmd 0x00008001) = .reject .illegalCommand := by decide
theorem test_decode_bit24 : decode (.cmd 0x01000001) = .reject .illegalCommand := by decide
theorem test_decode_bit31 : decode (.cmd 0x80000000) = .reject .illegalCommand := by decide
theorem test_decode_nop_bit4 : decode (.cmd 0x00000010) = .reject .illegalCommand := by decide
theorem test_decode_ack_bit4 : decode (.cmd 0x00000012) = .reject .illegalCommand := by decide
theorem test_decode_pixel0 :
    decode (.kcell 0x0000 0x1234 0x5678 0x9ABC 0xDEF0) = .ok .pixel0 := by decide
theorem test_decode_scalar : decode (.kcell 0x0001 0xFFFF 7 7 7) = .ok (.scalar (-1)) := by decide
theorem test_decode_pixel2 : decode (.kcell 0x0002 7 0 0 0) = .ok (.pixel2 7 0) := by decide
theorem test_decode_pixel3 :
    decode (.kcell 0x0003 1 2 0xFFFF 0x63) = .ok (.pixel3 1 2 (-1)) := by decide
theorem test_decode_pixel4 :
    decode (.kcell 0x0004 0xC 0xC 0xC 0) = .ok (.pixel4 12 12 12 0) := by decide
theorem test_decode_tag5 : decode (.kcell 0x0005 0 0 0 0) = .reject .reservedTag := by decide
theorem test_decode_tag_high : decode (.kcell 0x0101 0 0 0 0) = .reject .reservedTag := by decide
theorem test_decode_idle : decode (.seq 0b000) = .ok .idle := by decide
theorem test_decode_collect : decode (.seq 0b001) = .ok .collect := by decide
theorem test_decode_kresolve : decode (.seq 0b010) = .ok .kresolve := by decide
theorem test_decode_kcheck : decode (.seq 0b011) = .ok .kcheck := by decide
theorem test_decode_ksum : decode (.seq 0b100) = .ok .ksum := by decide
theorem test_decode_mac : decode (.seq 0b101) = .ok .mac := by decide
theorem test_decode_norm : decode (.seq 0b110) = .ok .norm := by decide
theorem test_decode_write : decode (.seq 0b111) = .ok .write := by decide

/-- The words of 30_encoding.md R76's example and 95_test_vectors.md 2.8. -/
theorem test_encode_convolve :
    encode (.convolve 0 .generator true 3) = .cmd 0x00030301 ∧
    encode (.convolve 15 .static true 255) = .cmd 0x00FF02F1 := by decide

/-! ## Every row runs as the first operation after reset -/

theorem test_first_nop : step (State.reset.withFetchWord 32 0) = .next State.reset := rfl
theorem test_first_ack : step (State.reset.withFetchWord 32 2) = .next State.reset := rfl
/-- Program P8: `ERR_CODE` 1, `ERR_INFO` 0x300. -/
theorem test_first_convolve :
    nextOf (fun t => (t.mode, t.errCode, t.errInfo))
      (step (State.reset.withFetchWord 32 0x101)) = some (.error, .invalidSource, 0x300) := by
  decide
theorem test_first_cells :
    nextOf (·.work.ker) (step (State.reset.withFetchWord 16 0)) = some [⟨0, 0, 0, 255⟩] ∧
    nextOf (·.work.ker) (step (State.reset.withFetchWord 16 1)) = some [⟨0, 0, 0, 255⟩] ∧
    nextOf (·.work.ker) (step (State.reset.withFetchWord 16 2)) = some [⟨0, 0, 0, 0⟩] ∧
    nextOf (·.work.ker) (step (State.reset.withFetchWord 16 3)) = some [⟨0, 0, 0, 255⟩] ∧
    nextOf (·.work.ker) (step (State.reset.withFetchWord 80 0x00050004000300020004)) =
      some [⟨2, 3, 4, 5⟩] := by decide
theorem test_first_sequence :
    nextOf (·.phase) (step (State.reset.withFetchWord 8 0)) = some 0 ∧
    nextOf (·.phase) (step (State.reset.withFetchWord 8 1)) = some 2 ∧
    nextOf (·.phase) (step (State.reset.withFetchWord 8 2)) = some 3 ∧
    nextOf (·.errCode) (step (State.reset.withFetchWord 8 3)) = some .kernelShape ∧
    nextOf (·.errCode) (step (State.reset.withFetchWord 8 4)) = some .degenerateKernel ∧
    nextOf (·.phase) (step (State.reset.withFetchWord 8 5)) = some 6 ∧
    nextOf (·.errCode) (step (State.reset.withFetchWord 8 6)) = some .degenerateKernel ∧
    nextOf (·.mode) (step (State.reset.withFetchWord 8 7)) = some .done := by decide

/-! ## The host commands -/

/-- Program P9, first line: `NOP` in `DONE` leaves `STATUS = 2`. -/
theorem test_nop_keeps_status :
    nextOf (fun t => statusWord t.mode t.phase) (exec .nop doneState) = some 0x00000002 := by decide
/-- R138's example: word 0x00030301 on a 3 by 3 image. -/
theorem test_convolve_starts :
    nextOf (fun t => (t.mode, t.work.latHalf, t.work.latW, t.work.latKsrc))
      (exec (.convolve 0 .generator true 3) { State.reset with imgW := 3, imgH := 3 }) =
      some (.busy, 1, 3, .generator) := by decide
/-- 95_test_vectors.md 2.4: a static record of 3 rows and 5 columns resolves `size = 3`. -/
theorem test_convolve_size_is_rows :
    nextOf (·.work.latSize) (exec (.convolve 0 .static false 255)
      { State.reset with imgW := 3, imgH := 3, kmem := [(0, 0x0503)] }) = some 3 := by decide
/-- Program P9: `ACK` in `ERROR` clears `STATUS` and `ERR_*`. -/
theorem test_ack_clears :
    nextOf (fun t => (statusWord t.mode t.phase, errCodeBits t.errCode, t.errInfo))
      (exec .ack errorState) = some (0, 0, 0) := by decide
/-- 95_test_vectors.md 2.9: four error records of `CONVOLVE`. -/
theorem test_convolve_errors :
    sourceInfo 0 true true = 0x00000300 ∧ sourceInfo 1 true false = 0x00000101 ∧
    sourceInfo 7 false false = 0x00000007 ∧ sourceInfo 9 true false = 0x00000109 := by decide
/-- 95_test_vectors.md 2.8: an illegal word gives `ERR_CODE = 4`, `ERR_INFO = 1`. -/
theorem test_illegal_word :
    nextOf (fun t => (statusWord t.mode t.phase, errCodeBits t.errCode, t.errInfo, t.omemValid))
      (step { doneState with inbox := [.regWrite 0 3] }) = some (4, 4, 1, true) := by decide

/-! ## The cell forms, in a pass whose Area has two cells (95_test_vectors.md 2.1) -/

/-- An Area of one row and two columns, at the cells. -/
def twoCells (ker : List Weight) : State :=
  busyAt 0b011 { Work.reset with cols := 2, krows := 1, kcols := 2, ker := ker, decoding := true }

theorem test_pixel0 :
    nextOf (·.work.ker) (exec .pixel0 (twoCells [])) = some [⟨0, 0, 0, 255⟩] := by decide
theorem test_scalar_negative :
    nextOf (fun t => (t.phase, t.work.ker)) (exec (.scalar 0x8000) (twoCells [])) =
      some (0b011, [⟨-32768, -32768, -32768, 255⟩]) := by decide
theorem test_pixel2 :
    nextOf (·.work.ker) (exec (.pixel2 7 0) (twoCells [])) = some [⟨7, 7, 7, 0⟩] := by decide
/-- The last cell ends `KCHECK` (R110). -/
theorem test_pixel3_last :
    nextOf (fun t => (t.phase, t.work.decoding, t.work.ker))
      (exec (.pixel3 1 2 0xFFFF) (twoCells [⟨1, 1, 1, 255⟩])) =
      some (0b100, false, [⟨1, 1, 1, 255⟩, ⟨1, 2, -1, 255⟩]) := by decide
theorem test_pixel4 :
    nextOf (·.work.ker) (exec (.pixel4 12 13 14 0) (twoCells [])) =
      some [⟨12, 13, 14, 0⟩] := by decide
/-- Program P5c: `TAG = 5` at cell 1 gives `ERR_INFO = 0x00010003`. -/
theorem test_reserved_cell :
    nextOf (fun t => (errCodeBits t.errCode, t.errInfo))
      (step { twoCells [⟨1, 1, 1, 255⟩] with
        kmem := cellsFrom 0 [0x0201, 1, 1, 0, 0, 0, 5, 0, 0, 0, 0] }) =
      some (4, 0x00010003) := by decide

/-! ## The sequencer operations -/

theorem test_idle : exec .idle doneState = .next doneState := rfl
/-- 95_test_vectors.md 2.3: 5 by 5, centre (4, 3), size 5. -/
theorem test_collect_box :
    nextOf (fun t => (t.work.left, t.work.top, t.work.right, t.work.bottom, t.work.rows,
      t.work.cols)) (exec .collect (busyAt 1 (scanAt 5 5 4 3 5))) =
      some (2, 1, 4, 4, 4, 3) := by decide
/-- 95_test_vectors.md 2.3, sampling: program P1's image, centre (2, 1), `half = 1`. -/
theorem test_collect_samples :
    nextOf (·.work.win)
      (exec .collect { busyAt 1 (scanAt 3 3 2 1 3) with imem := p1Image }) =
      some [⟨20, 100, 7, 128⟩, ⟨30, 100, 14, 128⟩, ⟨50, 100, 28, 128⟩, ⟨60, 100, 35, 128⟩,
        ⟨80, 100, 49, 128⟩, ⟨90, 100, 56, 128⟩] := by decide
/-- 95_test_vectors.md 2.5: header 0x0203 is 3 rows, 2 columns. -/
theorem test_kresolve_static :
    nextOf (fun t => (t.phase, t.work.krows, t.work.kcols))
      (exec .kresolve { busyAt 2 Work.reset with kmem := [(0, 0x0203)] }) =
      some (0b011, 3, 2) := by decide
/-- Program P1's first exchange: the beats sent, and the header taken. -/
theorem test_kresolve_generator :
    nextOf (fun t => (t.genOut, t.work.krows, t.genOpen)) (exec .kresolve { busyAt 2
      { scanAt 3 3 0 0 3 with
        latKsrc := .generator
        right := 1
        bottom := 1
        rows := 2
        cols := 2
        win := [⟨10, 100, 0, 128⟩, ⟨20, 100, 7, 128⟩, ⟨40, 100, 21, 128⟩, ⟨50, 100, 28, 128⟩] } with
      genIn := [[0x0202, 1, 1, 0, 0, 0, 1, 1, 0, 0, 0, 1, 1, 0, 0, 0, 1, 1, 0, 0, 0]] }) =
      some ([[0, 0, 1, 1, 0, 0, 0x0A, 0x64, 0, 0x80, 0x14, 0x64, 7, 0x80, 0x28, 0x64, 0x15, 0x80,
        0x32, 0x64, 0x1C, 0x80]], 2, false) := by decide
/-- 95_test_vectors.md 2.5: a transposed record is a mismatch, `ERR_INFO = 0x02030302`. -/
theorem test_kcheck_transposed :
    nextOf (fun t => (errCodeBits t.errCode, t.errInfo)) (exec .kcheck (busyAt 3
      { Work.reset with rows := 3, cols := 2, krows := 2, kcols := 3 })) =
      some (2, 0x02030302) := by decide
theorem test_kcheck_starts :
    nextOf (fun t => (t.phase, t.work.decoding, t.work.ker)) (exec .kcheck (busyAt 3
      { Work.reset with rows := 3, cols := 2, krows := 3, kcols := 2, ker := [⟨1, 1, 1, 1⟩] })) =
      some (0b011, true, []) := by decide
/-- 95_test_vectors.md 2.6: `12` and five `-1` sum to 7. -/
theorem test_ksum :
    nextOf (·.work.ksum) (exec .ksum (busyAt 4 { Work.reset with
      ker := ⟨12, 12, 12, 0⟩ :: List.replicate 5 ⟨-1, -1, -1, 255⟩ })) =
      some ⟨7, 7, 7⟩ := by decide
/-- 95_test_vectors.md 2.6: `Pixel(1,2,1)`, `Pixel(1,1,-1)` give sums 2, 3, 0. -/
theorem test_ksum_degenerate :
    nextOf (fun t => (errCodeBits t.errCode, t.errInfo)) (exec .ksum (busyAt 4 { Work.reset with
      ker := [⟨1, 2, 1, 255⟩, ⟨1, 1, -1, 255⟩] })) = some (3, 4) := by decide
/-- Program P6: sums 400, 490, -255. -/
theorem test_mac :
    nextOf (·.work.asum) (exec .mac (busyAt 5 { Work.reset with
      win := [⟨200, 10, 0, 9⟩, ⟨100, 250, 255, 9⟩]
      ker := [⟨3, -1, 2, 255⟩, ⟨-2, 2, -1, 255⟩] })) = some ⟨400, 490, -255⟩ := by decide
/-- Program P4, coordinate (0, 0): -10, 2270, -80 over 9 are -1, 252, -8. -/
theorem test_norm :
    nextOf (·.work.quot) (exec .norm (busyAt 6 { Work.reset with
      asum := ⟨-10, 2270, -80⟩
      ksum := ⟨9, 9, 9⟩ })) = some ⟨-1, 252, -8⟩ := by decide
/-- 95_test_vectors.md 2.7: V15 and `tdiv(7, -2) = -3`, each lane by its own sum. -/
theorem test_norm_signs :
    nextOf (·.work.quot) (exec .norm (busyAt 6 { Work.reset with
      asum := ⟨-31, 7, -7⟩
      ksum := ⟨-2, -2, 2⟩ })) = some ⟨15, -3, -3⟩ := by decide
/-- Program P4, coordinate (3, 0): 33, -13, 321 are stored as 33, 0, 255, at offset 12; the scan goes
to (0, 1). -/
theorem test_write :
    nextOf (fun t => (t.omem, t.phase, t.work.curX, t.work.curY))
      (exec .write (busyAt 7 { scanAt 4 2 3 0 3 with quot := ⟨33, -13, 321⟩ })) =
      some ([(12, 33), (13, 0), (14, 255), (15, 255)], 0b001, 0, 1) := by decide
/-- Program P4, coordinate (3, 1), the last: `DONE`, output valid. -/
theorem test_write_last :
    nextOf (fun t => (statusWord t.mode t.phase, t.omemValid, Memory.get t.omem 28))
      (exec .write (busyAt 7 { scanAt 4 2 3 1 3 with quot := ⟨91, 44, 10⟩ })) =
      some (2, true, some 91) := by decide

/-! ## Operand corners (95_test_vectors.md 2.2, 2.3, 2.7) -/

theorem test_offset_largest : offset 65535 65535 65534 65534 = some 17179344896 := by decide
theorem test_offset_outside : offset 3 3 3 0 = none := by decide
theorem test_half : halfOfSize 1 = 0 ∧ halfOfSize 2 = 1 ∧ halfOfSize 3 = 1 ∧ halfOfSize 4 = 2 ∧
    halfOfSize 254 = 127 ∧ halfOfSize 255 = 127 := by decide
theorem test_box_wide :
    areaBox 65535 65535 127 65534 65534 = ⟨65407, 65407, 65534, 65534⟩ := by decide
theorem test_clamp8 : clamp8 (-32768) = 0 ∧ clamp8 (-1) = 0 ∧ clamp8 0 = 0 ∧ clamp8 254 = 254 ∧
    clamp8 255 = 255 ∧ clamp8 256 = 255 ∧ clamp8 321 = 255 := by decide
theorem test_tdiv : tdiv 7 2 = 3 ∧ tdiv (-7) 2 = -3 ∧ tdiv 7 (-2) = -3 ∧ tdiv (-7) (-2) = 3 ∧
    tdiv (-1) 2 = 0 ∧ tdiv 1 (-2) = 0 ∧ tdiv 2270 9 = 252 := by decide
/-- V1 as one coordinate, and program P3's error at (0, 0), by the big-step form. -/
theorem test_convPixel :
    convPixel p1Image 3 3 1 (staticKernel (cellsFrom 0 (0x0303 ::
      (List.replicate 9 [1, 1, 0, 0, 0]).flatten))) 1 1 = .stored ⟨50, 100, 28, 255⟩ ∧
    convPixel p1Image 3 3 1 (staticKernel [(0, 0x0303)]) 0 0 =
      .raised .kernelShape 0x02020303 := by decide

/-! ## The host port -/

/-- Program P9: `KSIZE_DEFAULT` keeps bits 7:0 of 0x103. -/
theorem test_ksize_write :
    nextOf (·.ksizeDefault) (step { doneState with inbox := [.regWrite 0x20 0x103] }) =
      some 3 := by decide
/-- R11: an offset outside the map reads 0; `CMD` reads 0; `ERR_INFO` reads whole. -/
theorem test_reg_reads :
    nextOf (·.rdata) (step { errorState with inbox := [.regRead 0x24] }) = some 0 ∧
    nextOf (·.rdata) (step { errorState with inbox := [.regRead 0x00] }) = some 0 ∧
    nextOf (·.rdata) (step { errorState with inbox := [.regRead 0x04] }) = some 4 ∧
    nextOf (·.rdata) (step { errorState with inbox := [.regRead 0x14] }) = some 0x02020303 := by
  decide
/-- R51: the host has no access to `IMEM` while `BUSY = 1`. -/
theorem test_imem_busy :
    step { onePixelStart with inbox := [.imemWrite 0 1] } = .refused .inputAccessWhileBusy :=
  rfl
/-- R177: reset in a pass leaves `STATUS = 0` and `IMEM` as it was. -/
theorem test_reset_in_pass :
    nextOf (fun t => (statusWord t.mode t.phase, t.imem, t.ksizeDefault))
      (step { onePixelStart with inbox := [.reset] }) =
      some (0, onePixel.imem, 5) := by decide

/-! ## States that meet the invariants -/

theorem onePixel_scan : ScanOk Work.reset :=
  ⟨by decide, by decide, by decide, by decide, by decide, by decide⟩

/-- Nothing is written yet. -/
theorem nothing_written {w : Work} (h : pixelsBefore w = 0) :
    (∀ a, (Memory.get ([] : List Host.Cell) a).isSome ↔ a < 4 * pixelsBefore w) ∧
    ∀ k, k < pixelsBefore w → Memory.get ([] : List Host.Cell) (4 * k + 3) = some 255 := by
  simp [h]

theorem onePixelStart_pass :
    PassOk onePixel.imem [] onePixel.kmem 0b001 Work.reset where
  scan := onePixel_scan
  area h := absurd h (by decide)
  header h := absurd h (by decide)
  cells h := absurd h (by decide)
  kernel h := absurd h (by decide)
  sums h := absurd h (by decide)
  weighted h := absurd h (by decide)
  quotients h := absurd h (by decide)
  written := (nothing_written rfl).1
  opaqueAlpha := (nothing_written rfl).2

theorem onePixelStart_inv : onePixelStart.Inv where
  imemWf := by decide
  omemWf := by decide
  kmemWf := by decide
  phase := by decide
  errCode := by decide
  errRecord := by decide
  valid := by decide
  doneValid := by decide
  exchange := by decide
  pass _ := onePixelStart_pass

theorem onePixelGenStart_inv : onePixelGenStart.Inv where
  imemWf := by decide
  omemWf := by decide
  kmemWf := by decide
  phase := by decide
  errCode := by decide
  errRecord := by decide
  valid := by decide
  doneValid := by decide
  exchange := by decide
  pass _ :=
    { scan := ⟨by decide, by decide, by decide, by decide, by decide, by decide⟩
      area := fun h => absurd h (by decide)
      header := fun h => absurd h (by decide)
      cells := fun h => absurd h (by decide)
      kernel := fun h => absurd h (by decide)
      sums := fun h => absurd h (by decide)
      weighted := fun h => absurd h (by decide)
      quotients := fun h => absurd h (by decide)
      written := (nothing_written rfl).1
      opaqueAlpha := (nothing_written rfl).2 }

theorem onePixelWrite_area : AreaOk onePixel.imem onePixelWrite.work where
  left := by decide
  top := by decide
  right := by decide
  bottom := by decide
  rows := by decide
  cols := by decide
  win := by decide

theorem onePixelWrite_inv : onePixelWrite.Inv where
  imemWf := by decide
  omemWf := by decide
  kmemWf := by decide
  phase := by decide
  errCode := by decide
  errRecord := by decide
  valid := by decide
  doneValid := by decide
  exchange := by decide
  pass _ :=
    { scan := ⟨by decide, by decide, by decide, by decide, by decide, by decide⟩
      area := fun _ => onePixelWrite_area
      header := fun _ => ⟨fun _ => by decide, fun h => absurd h (by decide)⟩
      cells := fun h => absurd h (by decide)
      kernel := fun _ => by decide
      sums := fun _ => by decide
      weighted := fun _ => by decide
      quotients := fun _ => by decide
      written := (nothing_written rfl).1
      opaqueAlpha := (nothing_written rfl).2 }

/-- The state after its `WRITE`: `DONE`, with an output. -/
def onePixelDone : State :=
  { onePixel with
    mode := .done
    omem := cellsFrom 0 [10, 20, 30, 255]
    omemValid := true }

theorem onePixelDone_inv : onePixelDone.Inv where
  imemWf := by decide
  omemWf := by decide
  kmemWf := by decide
  phase := by decide
  errCode := by decide
  errRecord := by decide
  valid := by decide
  doneValid := by decide
  exchange := by decide
  pass h := absurd h (by decide)

theorem onePixelStart_passStart : PassStart onePixelStart :=
  ⟨onePixelStart_inv, rfl, rfl, rfl, rfl, rfl⟩

/-! ## For each statement with hypotheses, something that meets them -/

theorem witness_DecodeInvertsEncode :
    (Instr.convolve 15 .generator true 255).wellFormed = true ∧ Instr.write.wellFormed = true ∧
    (Instr.pixel4 0xFFFF 1 2 3).wellFormed = true := by decide

theorem witness_EncodeInvertsDecode :
    decode (.cmd 0x00FF02F1) = .ok (.convolve 15 .static true 255) ∧
    decode (.seq 0b111) = .ok .write ∧
    decode (.kcell 4 0xFFFF 1 2 3) = .ok (.pixel4 0xFFFF 1 2 3) ∧
    decode (.kcell 0 0xFFFF 1 2 3) = .ok .pixel0 := by decide

/-- Both ends of the loop: a cell before the last, and the last; every form. -/
theorem witness_CellFormsAppendTheirPixel (n a r g b : Half) :
    (twoCells []).mode = .busy ∧
    (twoCells []).work.ker.length + 1 <
      (twoCells []).work.rows.toNat * (twoCells []).work.cols.toNat ∧
    ¬(twoCells [⟨1, 1, 1, 1⟩]).work.ker.length + 1 <
      (twoCells [⟨1, 1, 1, 1⟩]).work.rows.toNat * (twoCells [⟨1, 1, 1, 1⟩]).work.cols.toNat ∧
    ∀ c ∈ [(Instr.pixel0, (⟨0, 0, 0, 255⟩ : Weight)), (.scalar n, ⟨n, n, n, 255⟩),
        (.pixel2 n a, ⟨n, n, n, a⟩), (.pixel3 r g b, ⟨r, g, b, 255⟩),
        (.pixel4 r g b a, ⟨r, g, b, a⟩)],
      (c.1 = .pixel0 ∧ c.2 = ⟨0, 0, 0, 255⟩ ∨ c.1 = .scalar n ∧ c.2 = ⟨n, n, n, 255⟩ ∨
        c.1 = .pixel2 n a ∧ c.2 = ⟨n, n, n, a⟩ ∨ c.1 = .pixel3 r g b ∧ c.2 = ⟨r, g, b, 255⟩ ∨
        c.1 = .pixel4 r g b a ∧ c.2 = ⟨r, g, b, a⟩) := by
  refine ⟨rfl, by decide, by decide, ?_⟩
  simp

/-- A pass whose next cell has this tag. -/
def nextTag (tag : Half) : State :=
  { twoCells [] with kmem := cellsFrom 0 [0x0201, tag, 0, 0, 0, 0] }

/-- The least and the greatest reserved tag. -/
theorem witness_ReservedCellRaises :
    (nextTag 5).mode = .busy ∧ (nextTag 5).phase = 0b011 ∧ (nextTag 5).work.decoding = true ∧
    (nextTag 5).inbox = [] ∧ (nextTag 5).work.ker.length < 65025 ∧
    cellCode (recordHalf (nextTag 5)) (nextTag 5).work.ker.length = some (.kcell 5 0 0 0 0) ∧
    cellCode (recordHalf (nextTag 0xFFFF)) (nextTag 0xFFFF).work.ker.length =
      some (.kcell 0xFFFF 0 0 0 0) ∧
    5 ≤ (5 : Half).toNat ∧ 5 ≤ (0xFFFF : Half).toNat := by decide

/-- The first and the last pixel, one with both neighbours, and one step outside each side. -/
theorem witness_OffsetIsExact : (65535 : Nat) ≤ 65535 ∧
    ((0 : Nat) < 65535 ∧ (0 : Nat) + 1 < 65535) ∧ (65534 : Nat) < 65535 ∧
    ¬((65535 : Nat) < 65535 ∧ (0 : Nat) < 65535) ∧
    ¬((0 : Nat) < 65535 ∧ (65535 : Nat) < 65535) := by decide

/-- The last pixel of the largest image with the largest size, and the one pixel of the least. -/
theorem witness_CollectClampsTheBox :
    (busyAt 1 (scanAt 65535 65535 65534 65534 255)).mode = .busy ∧
    ScanOk (scanAt 65535 65535 65534 65534 255) ∧ onePixelStart.mode = .busy ∧
    ScanOk onePixelStart.work :=
  ⟨rfl, ⟨by decide, by decide, by decide, by decide, by decide, by decide⟩, rfl, onePixel_scan⟩

theorem witness_CollectSamplesTheWindow :
    let s : State := { busyAt 1 (scanAt 3 3 2 1 3) with imem := p1Image }
    s.mode = .busy ∧ ScanOk s.work ∧
    nextOf (fun t => (t.work.rows.toNat, t.work.cols.toNat)) (exec .collect s) = some (3, 2) :=
  ⟨rfl, ⟨by decide, by decide, by decide, by decide, by decide, by decide⟩, by decide⟩

/-- An interior coordinate that the window reaches every edge from, and a corner. -/
theorem witness_CollectShapeIsBounded :
    (∃ t, exec .collect (busyAt 1 (scanAt 5 5 2 2 5)) = .next t) ∧
    ScanOk (scanAt 5 5 2 2 5) ∧ (scanAt 5 5 2 2 5).latHalf.toNat ≤ 2 ∧
    2 + (scanAt 5 5 2 2 5).latHalf.toNat ≤ 5 - 1 ∧
    (∃ t, exec .collect (busyAt 1 (scanAt 5 5 0 0 5)) = .next t) ∧ ScanOk (scanAt 5 5 0 0 5) :=
  ⟨⟨_, rfl⟩, ⟨by decide, by decide, by decide, by decide, by decide, by decide⟩, by decide,
    by decide, ⟨_, rfl⟩, ⟨by decide, by decide, by decide, by decide, by decide, by decide⟩⟩

theorem witness_WindowStaysInsideTheImage :
    (4 : Nat) < 5 ∧ (3 : Nat) < 5 ∧ (2, 1) ∈ boxCoords (areaBox 5 5 2 4 3) ∧
    (4, 4) ∈ boxCoords (areaBox 5 5 2 4 3) := by decide

/-- Outside by the column only, and by the row only. -/
theorem witness_OutsideTheImageFaults :
    let s := busyAt 1 (scanAt 3 3 3 0 1)
    let t := busyAt 1 (scanAt 3 3 0 3 1)
    s.mode = .busy ∧ ¬(s.work.curX.toNat < s.work.latW.toNat ∧
      s.work.curY.toNat < s.work.latH.toNat) ∧
    t.mode = .busy ∧ ¬(t.work.curX.toNat < t.work.latW.toNat ∧
      t.work.curY.toNat < t.work.latH.toNat) := by decide

theorem witness_KresolveTakesTheStaticHeader :
    onePixelStart.mode = .busy ∧ onePixelStart.work.latKsrc = .static := by decide

/-- A whole answer of the Area's shape; and one of another shape, with no cell; the exchange not yet
open, and open. -/
theorem witness_KresolveMakesOneExchange :
    let s := onePixelGenStart
    let t : State := { onePixelGenStart with genIn := [[0x0202]], genOpen := true }
    s.mode = .busy ∧ s.work.latKsrc = .generator ∧ s.genIn = [0x0101 :: [1, 1, 0, 0, 0]] ∧
    s.work.rows = 1 ∧ s.work.cols = 1 ∧ 5 * (1 * 1) ≤ [(1 : Half), 1, 0, 0, 0].length ∧
    t.mode = .busy ∧ t.work.latKsrc = .generator ∧ t.genIn = [[0x0202]] ∧
    (0x0202 : Half).extractLsb' 0 8 ≠ t.work.rows := by decide

/-- No answer at all; a header of the right shape without all its cells. -/
theorem witness_UnansweredExchangeWaitsForEver :
    let s : State := { onePixelGenStart with phase := 0b010, genIn := [] }
    let t : State := { s with genIn := [[0x0101, 1, 1, 0, 0]] }
    s.mode = .busy ∧ s.phase = 0b010 ∧ s.work.latKsrc = .generator ∧ s.inbox = [] ∧
    t.mode = .busy ∧ t.inbox = [] ∧
    takeAnswer t.work.rows t.work.cols [0x0101, 1, 1, 0, 0] = none := by decide

theorem witness_AreaRecordLayout :
    AreaOk onePixel.imem onePixelWrite.work ∧
    onePixelWrite.work.curX.toNat < onePixelWrite.work.latW.toNat ∧
    onePixelWrite.work.curY.toNat < onePixelWrite.work.latH.toNat ∧
    onePixelWrite.work.win[0]? = some ⟨10, 20, 30, 40⟩ :=
  ⟨onePixelWrite_area, by decide, by decide, by decide⟩

theorem witness_OnlyKresolveUsesGen :
    (∃ t, exec .mac onePixelStart = .next t) ∧ Instr.mac ≠ .kresolve ∧
    nextOf (·.genOut.length) (exec .kresolve onePixelGenStart) = some 1 :=
  ⟨⟨_, rfl⟩, by decide, by decide⟩

/-- Only the rows differ; only the columns differ. -/
theorem witness_KcheckRejectsAnotherShape :
    let s := busyAt 3 { Work.reset with krows := 2, kcols := 1 }
    let t := busyAt 3 { Work.reset with krows := 1, kcols := 0 }
    s.mode = .busy ∧ s.work.krows ≠ s.work.rows ∧ s.work.kcols = s.work.cols ∧
    t.mode = .busy ∧ t.work.krows = t.work.rows ∧ t.work.kcols ≠ t.work.cols := by decide

theorem witness_KcheckStartsAtTheFirstCell :
    onePixelCheck.mode = .busy ∧ onePixelCheck.work.krows = onePixelCheck.work.rows ∧
    onePixelCheck.work.kcols = onePixelCheck.work.cols := by decide

/-- A whole kernel under the header `KRESOLVE` took, a reserved cell, a record cut short. -/
theorem witness_KcheckExpandsEveryCell :
    let s := onePixelCheck
    let t : State := { s with kmem := cellsFrom 0 [0x0101, 5, 0, 0, 0, 0] }
    let u : State := { s with work := { s.work with latKsrc := .generator, krec := [0x0101, 1] } }
    s.mode = .busy ∧ s.phase = 0b011 ∧ s.work.decoding = false ∧ s.inbox = [] ∧
    s.work.krows = s.work.rows ∧ s.work.kcols = s.work.cols ∧ 1 ≤ s.work.rows.toNat ∧
    1 ≤ s.work.cols.toNat ∧ expandCells (recordHalf s) 0 1 = .kernel [⟨1, 1, 1, 255⟩] ∧
    expandCells (recordHalf t) 0 1 = .reserved 0 ∧ expandCells (recordHalf u) 0 1 = .short ∧
    HeaderOk s.kmem s.work :=
  ⟨by decide, by decide, by decide, by decide, by decide, by decide, by decide, by decide,
    by decide, by decide, by decide, fun _ => by decide, fun h => absurd h (by decide)⟩

/-- A 3 by 3 image with `half = 1` and a full record; the boundary of the second case. -/
theorem witness_StaticKernelsNeedOneShape :
    (1 : Nat) ≤ 3 ∧ (1 : Nat) ≤ 127 ∧ (1 : Nat) ≠ 0 ∧
    (headerRows (kmemHalf [(0, 0x0303)] 0)).toNat = 2 * 1 + 1 ∧
    (headerCols (kmemHalf [(0, 0x0303)] 0)).toNat = 2 * 1 + 1 ∧
    ((2 : Nat) ≤ 1 + 1 ∧ ¬(3 : Nat) ≤ 1 + 1) := by decide

theorem witness_KsumAddsTheWeights :
    let s := busyAt 4 { Work.reset with ker := [⟨0x8000, -1, 2, 0⟩, ⟨0x8000, -1, 2, 0⟩] }
    s.mode = .busy ∧ s.work.ker.length ≤ 65025 ∧ (s.work.ker.map (·.r.toInt)).sum ≠ 0 ∧
    (s.work.ker.map (·.g.toInt)).sum ≠ 0 ∧ (s.work.ker.map (·.b.toInt)).sum ≠ 0 := by decide

/-- Each channel alone is zero, then all of them. -/
theorem witness_DegenerateKernelIsRejected :
    (busyAt 4 Work.reset).mode = .busy ∧
    ∀ k ∈ [[(⟨0, 1, 1, 1⟩ : Weight)], [⟨1, 0, 1, 1⟩], [⟨1, 1, 0, 1⟩], []],
      k.length ≤ 65025 ∧ ((k.map (·.r.toInt)).sum = 0 ∨ (k.map (·.g.toInt)).sum = 0 ∨
        (k.map (·.b.toInt)).sum = 0) := by decide

theorem witness_MacAddsTheProducts :
    let s := busyAt 5 { Work.reset with win := [⟨255, 255, 255, 0⟩], ker := [⟨0x8000, -1, 1, 0⟩] }
    s.mode = .busy ∧ (s.work.win.zip s.work.ker).length ≤ 65025 := by decide

/-- The largest kernel (R123). -/
theorem witness_AccumulatorsNeverOverflow :
    (List.replicate 65025 (⟨0x8000, 0x7FFF, 0, 0⟩ : Weight)).length ≤ 65025 :=
  (List.length_replicate ..).le

/-- At the bound of R123, by the least and the greatest divisor. -/
theorem witness_NormDividesTowardZero :
    let s := busyAt 6 { Work.reset with
      asum := ⟨543338496000, -543338496000, 549755813887⟩
      ksum := ⟨1, -1, 2130739200⟩ }
    s.mode = .busy ∧ s.work.ksum.r ≠ 0 ∧ s.work.ksum.g ≠ 0 ∧ s.work.ksum.b ≠ 0 ∧
    |s.work.asum.r.toInt| < 2 ^ 39 ∧ |s.work.asum.g.toInt| < 2 ^ 39 ∧
    |s.work.asum.b.toInt| < 2 ^ 39 := by decide

/-- A negative factor beside another, and the factor of V6. -/
theorem witness_ScalingTheKernelChangesNothing :
    (-2 : Int) ≠ 0 ∧ (3 : Int) ≠ 0 ∧ (7 : Int) ≠ 0 ∧ [(⟨1, 2, -3, 0⟩ : Weight)].length ≤ 65025 ∧
    List.Forall₂ (fun k k' : Weight => k'.r.toInt = -2 * k.r.toInt ∧ k'.g.toInt = 3 * k.g.toInt ∧
      k'.b.toInt = 7 * k.b.toInt) [⟨1, 2, -3, 0⟩] [⟨-2, 6, -21, 9⟩] ∧
    List.Forall₂ (fun k k' : Weight => k'.r.toInt = 7 * k.r.toInt ∧ k'.g.toInt = 7 * k.g.toInt ∧
      k'.b.toInt = 7 * k.b.toInt) (List.replicate 9 ⟨1, 1, 1, 255⟩)
        (List.replicate 9 ⟨7, 7, 7, 255⟩) := by decide

theorem witness_EqualWeightsGiveTheMean :
    1 ≤ [(⟨10, 20, 30, 40⟩ : Sample)].length ∧ [(⟨10, 20, 30, 40⟩ : Sample)].length ≤ 65025 ∧
    (0x8000 : Half) ≠ 0 ∧ (1 : Half) ≠ 0 := by decide

/-- Each channel, samples at the ends of their range. -/
theorem witness_NonNegativeWeightsStayInRange :
    let win : List Sample := [⟨255, 0, 7, 0⟩, ⟨255, 0, 0, 0⟩]
    let ker : List Weight := [⟨32767, 1, 0, 0⟩, ⟨0, 1, 5, 0⟩]
    win.length = ker.length ∧ ker.length ≤ 65025 ∧
    (∀ k ∈ ker, 0 ≤ k.r.toInt) ∧ (ker.map (·.r.toInt)).sum ≠ 0 ∧
    (∀ p ∈ win, 0 ≤ p.r.toNat ∧ p.r.toNat ≤ 255) ∧
    (∀ k ∈ ker, 0 ≤ k.g.toInt) ∧ (ker.map (·.g.toInt)).sum ≠ 0 ∧
    (∀ p ∈ win, 0 ≤ p.g.toNat ∧ p.g.toNat ≤ 255) ∧
    (∀ k ∈ ker, 0 ≤ k.b.toInt) ∧ (ker.map (·.b.toInt)).sum ≠ 0 ∧
    (∀ p ∈ win, 0 ≤ p.b.toNat ∧ p.b.toNat ≤ 255) := by decide

/-- The last pixel of the largest image, and the first of the least. -/
theorem witness_WriteStoresOnePixel :
    let s := busyAt 7 (scanAt 65535 65535 65534 65534 255)
    s.mode = .busy ∧ s.work.curX.toNat < s.work.latW.toNat ∧
    s.work.curY.toNat < s.work.latH.toNat ∧ onePixelWrite.mode = .busy ∧
    onePixelWrite.work.curX.toNat < onePixelWrite.work.latW.toNat ∧
    onePixelWrite.work.curY.toNat < onePixelWrite.work.latH.toNat := by decide

/-- Inside a row, at its end, at the last coordinate. -/
theorem witness_WriteAdvancesOrCompletes :
    let s := scanAt 3 2 1 0 1
    let t := scanAt 3 2 2 0 1
    let u := scanAt 3 2 2 1 1
    (busyAt 7 s).mode = .busy ∧ s.curX.toNat < s.latW.toNat ∧ s.curY.toNat < s.latH.toNat ∧
    s.curX.toNat + 1 < s.latW.toNat ∧
    t.curX.toNat + 1 = t.latW.toNat ∧ t.curY.toNat + 1 < t.latH.toNat ∧
    u.curX.toNat + 1 = u.latW.toNat ∧ u.curY.toNat + 1 = u.latH.toNat := by decide

/-- V17: `-1/2`. -/
theorem witness_FloorAndTruncationStoreTheSame :
    ⌊(-1 / 2 : ℚ)⌋ ≠ (if 0 ≤ (-1 / 2 : ℚ) then ⌊(-1 / 2 : ℚ)⌋ else ⌈(-1 / 2 : ℚ)⌉) ∧
    (2 : Int) ≠ 0 ∧ (-1 / 2 : ℚ) = ((-1 : Int) : ℚ) / (2 : Int) := by
  norm_num

/-- A size in the command, in `KMEM` and in `KSIZE_DEFAULT`. -/
theorem witness_ConvolveStartsThePass :
    let s := onePixel
    s.mode ≠ .busy ∧ (1 : BitVec 4).toNat ≤ 1 ∧ s.imgW ≠ 0 ∧ s.imgH ≠ 0 ∧ (255 : BitVec 8) ≠ 0 ∧
    (kmemHalf s.kmem 0).extractLsb' 0 8 = 1 ∧ s.ksizeDefault = 5 ∧ errorState.mode ≠ .busy := by
  decide

/-- Each cause alone, and all together at reset. -/
theorem witness_ConvolveRejectsAnInvalidSource :
    onePixel.mode ≠ .busy ∧ 2 ≤ (2 : BitVec 4).toNat ∧ 2 ≤ (15 : BitVec 4).toNat ∧
    ({ onePixel with imgW := 0 } : State).imgW = 0 ∧
    ({ onePixel with imgH := 0 } : State).imgH = 0 ∧ State.reset.mode ≠ .busy ∧
    State.reset.imgW = 0 ∧ State.reset.imgH = 0 := by decide

/-- Each source of the size gives 0. -/
theorem witness_ConvolveRejectsSizeZero :
    let s : State := { onePixel with kmem := [(0, 0x0300)], ksizeDefault := 0 }
    s.mode ≠ .busy ∧ (0 : BitVec 4).toNat ≤ 1 ∧ s.imgW ≠ 0 ∧ s.imgH ≠ 0 ∧
    (if true then (0 : BitVec 8) else 5) = 0 ∧ (kmemHalf s.kmem 0).extractLsb' 0 8 = 0 ∧
    s.ksizeDefault = 0 := by decide

theorem witness_ConvolveForgetsTheLastCall :
    onePixel.mode ≠ .busy ∧ Mode.error ≠ .busy ∧ Mode.done ≠ .busy := by decide

theorem witness_AckClearsTheRecord :
    doneState.mode = .done ∧ errorState.mode = .error ∧ State.reset.mode = .idle ∧
    onePixelStart.mode = .busy := by decide

/-- A legal and an illegal word. -/
theorem witness_CommandsWhileBusyAreDropped :
    let s : State := { onePixelStart with inbox := [.regWrite 0x00 2] }
    let t : State := { onePixelStart with inbox := [.regWrite 0x00 0xFFFFFFFF, .engine] }
    s.mode = .busy ∧ s.inbox = .regWrite 0x00 2 :: [] ∧ t.mode = .busy ∧
    t.inbox = .regWrite 0x00 0xFFFFFFFF :: [.engine] ∧ Instr.nop.format = .cmd ∧
    Instr.ack.format = .cmd ∧ (Instr.convolve 0 .static true 1).format = .cmd := by decide

/-- After `DONE` and after `ERROR`. -/
theorem witness_IllegalWordRaises :
    let s : State := { doneState with inbox := [.regWrite 0x00 3] }
    let t : State := { errorState with inbox := [.regWrite 0x00 0x80000000] }
    s.mode ≠ .busy ∧ s.inbox = [.regWrite 0x00 3] ∧
    decode (.cmd 3) = .reject .illegalCommand ∧ t.mode ≠ .busy ∧
    decode (.cmd 0x80000000) = .reject .illegalCommand := by decide

theorem witness_ResetInput :
    ({ onePixelGenStart with genOpen := true, inbox := [.reset] } : State).inbox =
      .reset :: [] := by decide

theorem witness_StatusRead : ∀ m ∈ [Mode.idle, .busy, .done, .error],
    ({ State.reset with mode := m, inbox := [.regRead 0x04] } : State).inbox =
      .regRead 0x04 :: [] := by decide

/-- Each register, `CMD`, an offset outside the map; and each code of `ERR_CODE`. -/
theorem witness_RegisterReads :
    (∀ off ∈ [0x00, 0x08, 0x0C, 0x10, 0x14, 0x18, 0x1C, 0x20, 0x24],
    ({ State.reset with inbox := [.regRead off] } : State).inbox = .regRead off :: [] ∧
    off % 4 = 0 ∧ off ≠ 0x04) ∧
    ∀ e ∈ [ErrCode.none, .invalidSource, .kernelShape, .degenerateKernel, .configuration],
      ({ State.reset with errCode := e, inbox := [.regRead 0x08] } : State).inbox =
        .regRead 0x08 :: [] := by decide

theorem witness_RegisterWrites : ∀ off ∈ [0x04, 0x14, 0x18, 0x1C, 0x20, 0x24],
    ({ onePixelStart with inbox := [.regWrite off 0xFFFFFFFF] } : State).inbox =
      .regWrite off 0xFFFFFFFF :: [] ∧ off % 4 = 0 ∧ off ≠ 0 := by decide

/-- The last unit of each memory, written and read. -/
theorem witness_HostWritesInputMemory :
    (∀ e ∈ [Event.imemRead (65535 * 65535 * 4 - 1), .kmemRead 325125],
      ({ State.reset with inbox := [e] } : State).inbox = e :: [] ∧
      ({ State.reset with inbox := [e] } : State).mode ≠ .busy) ∧
    let s : State := { State.reset with inbox := [.imemWrite (65535 * 65535 * 4 - 1) 7] }
    let t : State := { State.reset with inbox := [.kmemWrite 325125 7] }
    s.mode ≠ .busy ∧ s.inbox = [.imemWrite (65535 * 65535 * 4 - 1) 7] ∧
    65535 * 65535 * 4 - 1 < 65535 * 65535 * 4 ∧ t.mode ≠ .busy ∧
    t.inbox = [.kmemWrite 325125 7] ∧ 325125 < 325126 := by decide

/-- While `BUSY`, each access; the first address beyond each memory; a register offset beside a
word's, in both states. -/
theorem witness_HostAccessStops :
    (∀ e ∈ [Event.imemWrite 0 1, .imemRead 0, .kmemWrite 0 1, .kmemRead 0],
      ({ onePixelStart with inbox := [e] } : State).inbox = e :: [] ∧
      ({ onePixelStart with inbox := [e] } : State).mode = .busy) ∧
    (∀ e ∈ [Event.imemWrite (65535 * 65535 * 4) 1, .imemRead (65535 * 65535 * 4),
        .kmemWrite 325126 1, .kmemRead 325126],
      ({ State.reset with inbox := [e] } : State).inbox = e :: [] ∧
      ({ State.reset with inbox := [e] } : State).mode ≠ .busy) ∧
    ∀ off ∈ [1, 2, 3, 0x21], off % 4 ≠ 0 ∧
      ({ onePixelStart with inbox := [.regWrite off 0] } : State).inbox = .regWrite off 0 :: [] ∧
      ({ State.reset with inbox := [.regRead off] } : State).inbox = .regRead off :: [] := by decide

theorem witness_OutputReadsAsWritten :
    let s : State := { onePixelDone with inbox := [.omemRead 3] }
    s.inbox = .omemRead 3 :: [] ∧ 3 < 65535 * 65535 * 4 ∧ s.omemValid = true ∧
    Memory.get s.omem 3 = some 255 := by decide

/-- The output becomes valid at the last `WRITE`; it stops being valid at a `CONVOLVE`, and at
reset. -/
theorem witness_OutputValidityLifetime :
    (onePixelWrite.Inv ∧ onePixelWrite.omemValid = false ∧
      ∃ t, step onePixelWrite = .next t ∧ t.omemValid = true) ∧
    (∀ e ∈ [Event.regWrite 0 1, .reset], State.Inv { onePixelDone with inbox := [e] } ∧
      ∃ t, step { onePixelDone with inbox := [e] } = .next t ∧ t.omemValid = false) := by
  refine ⟨⟨onePixelWrite_inv, rfl, _, rfl, rfl⟩, ?_⟩
  have h := onePixelDone_inv
  intro e he
  refine ⟨⟨h.imemWf, h.omemWf, h.kmemWf, h.phase, h.errCode, h.errRecord, h.valid, h.doneValid,
    h.exchange, h.pass⟩, ?_⟩
  simp only [List.mem_cons, List.not_mem_nil, or_false] at he
  rcases he with rfl | rfl
  · exact ⟨_, rfl, rfl⟩
  · exact ⟨_, rfl, rfl⟩

/-- A command; the engine's turn with an event and without; a phase; a cell. -/
theorem witness_StepRunsTheDecodedOperation :
    let s : State := { doneState with inbox := [.regWrite 0x00 2] }
    let t : State := { onePixelWrite with inbox := [.engine] }
    let u : State := { twoCells [] with kmem := cellsFrom 0 [0x0201, 1, 7, 0, 0, 0] }
    Instr.ack.wellFormed = true ∧ s.inbox = [.regWrite 0x00 2] ∧ s.mode ≠ .busy ∧
    decode (.cmd 2) = .ok .ack ∧ doneState.inbox = [] ∧ doneState.mode ≠ .busy ∧
    t.inbox = [.engine] ∧ t.mode = .busy ∧ ¬(t.phase = 0b011 ∧ t.work.decoding = true) ∧
    decode (.seq t.phase) = .ok .write ∧ u.inbox = [] ∧ u.mode = .busy ∧ u.phase = 0b011 ∧
    u.work.decoding = true ∧
    cellCode (recordHalf u) u.work.ker.length = some (.kcell 1 7 0 0 0) ∧
    decode (.kcell 1 7 0 0 0) = .ok (.scalar 7) := by decide

/-- An operation that is `WRITE`, one that is not, one that discards the output. -/
theorem witness_OperationsLeaveTheInputsAlone :
    (∃ t, exec .write onePixelWrite = .next t) ∧ (∃ t, exec .mac onePixelWrite = .next t) ∧
    (∃ t, exec (.convolve 0 .static false 0) onePixelDone = .next t) ∧ Instr.mac ≠ .write :=
  ⟨⟨_, rfl⟩, ⟨_, rfl⟩, ⟨_, rfl⟩, by decide⟩

theorem witness_RunningPassIgnoresTheRegisters :
    Instr.collect.format ≠ .cmd ∧ (Instr.scalar 1).format ≠ .cmd ∧
    nextOf (·.phase) (exec .collect onePixelStart) = some 0b010 := by decide

/-- Each word of the table with its next state, while `BUSY` too; reset; the last `WRITE`; an operation
that raises. -/
theorem witness_StateTransitionsAreComplete :
    (∀ c ∈ [((0 : RegWord), Mode.done), (2, .idle), (1, .error), (0x00010201, .error),
        (0x00050321, .error), (3, .error)],
      nextOf (·.mode) (step { doneState with inbox := [.regWrite 0x00 c.1] }) = some c.2) ∧
    nextOf (·.mode) (step { onePixel with inbox := [.regWrite 0x00 1] }) = some .busy ∧
    decode (.cmd 0) = .ok .nop ∧ decode (.cmd 2) = .ok .ack ∧
    decode (.cmd 1) = .ok (.convolve 0 .static false 0) ∧
    decode (.cmd 3) = .reject .illegalCommand ∧
    (∀ w : RegWord,
      nextOf (·.mode) (step { onePixelStart with inbox := [.regWrite 0x00 w] }) = some .busy) ∧
    nextOf (·.mode) (step { onePixelStart with inbox := [.reset] }) = some .idle ∧
    nextOf (·.mode) (step onePixelWrite) = some .done ∧
    nextOf (·.mode) (step { onePixelStart with phase := 0b011 }) = some .error :=
  ⟨by decide, rfl, by decide, by decide, by decide, by decide, fun _ => rfl, rfl, rfl, rfl⟩

theorem witness_EveryStepKeepsTheInvariant :
    (onePixelStart.Inv ∧ ∃ t, step onePixelStart = .next t) ∧
    (onePixelWrite.Inv ∧ ∃ t, step onePixelWrite = .next t) ∧
    (onePixelGenStart.Inv ∧ ∃ t, step onePixelGenStart = .next t) :=
  ⟨⟨onePixelStart_inv, _, rfl⟩, ⟨onePixelWrite_inv, _, rfl⟩, ⟨onePixelGenStart_inv, _, rfl⟩⟩

theorem witness_EngineNeverFaults : onePixelWrite.Inv ∧ onePixelStart.Inv :=
  ⟨onePixelWrite_inv, onePixelStart_inv⟩

theorem witness_StaticPassIsTheBigStep :
    PassStart onePixelStart ∧ onePixelStart.work.latKsrc = .static :=
  ⟨onePixelStart_passStart, rfl⟩

/-- The one pixel's generator, as a function. -/
theorem witness_GeneratorPassIsTheBigStep :
    let s := onePixelGenStart
    PassStart s ∧ s.work.latKsrc = .generator ∧
    s.genIn = (rasterCoords s.work.latW.toNat s.work.latH.toNat).map (fun c =>
      (fun _ => [0x0101, 1, 1, 0, 0, 0]) (areaRecordAt s.imem s.work.latW.toNat s.work.latH.toNat
        s.work.latHalf.toNat c)) ++ [] :=
  ⟨⟨onePixelGenStart_inv, rfl, rfl, rfl, rfl, rfl⟩, rfl, by decide⟩

end Sys2Proof.Tests
end

section
/-! What one step can do, said once. An event is an access of the host's, the reset input, a command
word or the engine's turn; `Move` is the case split over them that the proofs about every step use. -/

namespace Sys2Proof.Machine

variable {s t : State} {later : List Event}

/-! ### A step by the next event -/

/-- What a plan answers. -/
def Plan.answer : Plan → Answer
  | .run i u => exec i u
  | .settle o => o

theorem step_eq_answer (s : State) : step s = (plan s).answer := by
  unfold step
  cases plan s <;> rfl

theorem step_nil (h : s.inbox = []) : step s = (engineTurn s).answer := by
  rw [step_eq_answer, plan_nil h]

theorem step_cons {e : Event} (h : s.inbox = e :: later) :
    step s = (eventTurn e { s with inbox := later }).answer := by
  rw [step_eq_answer, plan_cons h]

/-- It is the engine's turn, and `later` are the events after it: an event says so, or none is left
(log 7). -/
def EngineNext (s : State) (later : List Event) : Prop :=
  s.inbox = .engine :: later ∨ s.inbox = [] ∧ later = []

theorem step_engineNext (h : EngineNext s later) :
    step s = (engineTurn { s with inbox := later }).answer := by
  obtain h | ⟨h, rfl⟩ := h
  · exact step_cons h
  · rw [step_nil h, ← h]

theorem engineTurn_of_not_busy (hb : s.mode ≠ .busy) : engineTurn s = .run .idle s := if_neg hb

theorem engineTurn_of_phase (hb : s.mode = .busy) (ha : atCell s = false) :
    engineTurn s = .run (decodeSeq s.phase) s := by
  simp [engineTurn, hb, ha]

theorem engineTurn_of_cell {c : Code} {i : Instr} (hb : s.mode = .busy) (ha : atCell s = true)
    (hc : cellCode (recordHalf s) s.work.ker.length = some c) (hd : decode c = .ok i) :
    engineTurn s = .run i s := by
  simp [engineTurn, hb, ha, cellTurn, hc, hd]

theorem commandTurn_of_ok {w : RegWord} {i : Instr} (hb : s.mode ≠ .busy)
    (hd : decode (.cmd w) = .ok i) : commandTurn w s = .run i s := by
  simp [commandTurn, hb, hd]

theorem atCell_iff : atCell s = true ↔ s.phase = 0b011 ∧ s.work.decoding = true := by
  simp [atCell]

/-! ### The host's accesses -/

/-- The phase a read of `STATUS` shows (R12, R19; log 5). -/
def shownPhase (s : State) : BitVec 3 := if s.mode = .busy then unspecifiedPhase s.fresh else 0

/-- A register read changes `rdata` and, while `BUSY = 1`, the counter of free values. -/
theorem regRead_eq (off : Nat) (s : State) :
    regRead off s = { s with
      rdata := regValue off (shownPhase s) s
      fresh := if s.mode = .busy then s.fresh + 1 else s.fresh } := by
  unfold regRead shownPhase
  split_ifs <;> rfl

/-- A register write stores the field of the register at its offset. -/
theorem regStore_eq (off : Nat) (v : RegWord) (s : State) :
    regStore off v s = { s with
      imgW := if off = 0x18 then v.extractLsb' 0 16 else s.imgW
      imgH := if off = 0x1C then v.extractLsb' 0 16 else s.imgH
      ksizeDefault := if off = 0x20 then v.extractLsb' 0 8 else s.ksizeDefault } := by
  unfold regStore
  split_ifs <;> simp_all

/-- An access to an input memory that answers happened while `BUSY = 0`. -/
theorem inputAccess_next {size addr : Nat} {after : State}
    (h : inputAccess size addr s after = .next t) : s.mode ≠ .busy ∧ t = after := by
  unfold inputAccess at h
  split_ifs at h with hb
  cases h
  exact ⟨hb, rfl⟩

/-- A read of the output that answers changes `rdata` and the counter of free values only. -/
theorem omemRead_next {addr : Nat} (h : omemRead addr s = .next t) :
    ∃ r n, t = { s with rdata := r, fresh := n } := by
  unfold omemRead at h
  split_ifs at h
  split at h <;> cases h
  · exact ⟨_, s.fresh, rfl⟩
  · exact ⟨_, _, rfl⟩

/-! ### What a step can do -/

/-- What a step from `s` can do, and the state it leads to. -/
inductive Move (s : State) : State → Prop
  /-- An access of the host's, a command word dropped while `BUSY = 1`, or the engine's `IDLE`: only
  registers the host writes, what it read, and, while `BUSY = 0`, an input memory can differ. -/
  | access {imgW imgH : BitVec 16} {ksizeDefault : BitVec 8} {imem : List Host.Cell}
      {kmem : List (Nat × Half)} {inbox : List Event} {rdata : RegWord} {fresh : Nat}
      (inputs : imem = s.imem ∧ kmem = s.kmem ∨ s.mode ≠ .busy)
      (imemWf : Memory.wf s.imem → Memory.wf imem) (kmemWf : Memory.wf s.kmem → Memory.wf kmem) :
      Move s { s with
        imgW := imgW, imgH := imgH, ksizeDefault := ksizeDefault, imem := imem, kmem := kmem
        inbox := inbox, rdata := rdata, fresh := fresh }
  /-- The reset input. -/
  | reset (later : List Event) (event : s.inbox = .reset :: later) :
      Move s (resetMachine { s with inbox := later })
  /-- A command, performed while `BUSY = 0`. -/
  | command {t : State} (later : List Event) {w : RegWord} {i : Instr}
      (event : s.inbox = .regWrite 0x00 w :: later) (notBusy : s.mode ≠ .busy)
      (decoded : decodeCmd w = .ok i) (performed : exec i { s with inbox := later } = .next t) :
      Move s t
  /-- An illegal command word while `BUSY = 0`. -/
  | illegal (later : List Event) {w : RegWord} {why : Reject}
      (event : s.inbox = .regWrite 0x00 w :: later) (notBusy : s.mode ≠ .busy)
      (decoded : decodeCmd w = .reject why) :
      Move s (illegalCommand { s with inbox := later })
  /-- The operation of the phase. -/
  | operation {t : State} (later : List Event) (turn : EngineNext s later) (busy : s.mode = .busy)
      (notAtCell : atCell s = false)
      (performed : exec (decodeSeq s.phase) { s with inbox := later } = .next t) :
      Move s t
  /-- A cell of `KCHECK`'s loop, which puts the weight `MKPIXEL` builds. -/
  | cell (later : List Event) {tag v0 v1 v2 v3 : Half} {p : Weight} (turn : EngineNext s later)
      (busy : s.mode = .busy) (atCell : atCell s = true)
      (code : cellCode (recordHalf s) s.work.ker.length = some (.kcell tag v0 v1 v2 v3))
      (pixel : mkPixel tag v0 v1 v2 v3 = some p) :
      Move s (putCell p { s with inbox := later })
  /-- A cell of `KCHECK`'s loop with a reserved tag. -/
  | badCell (later : List Event) {tag v0 v1 v2 v3 : Half} (turn : EngineNext s later)
      (busy : s.mode = .busy) (atCell : atCell s = true)
      (code : cellCode (recordHalf s) s.work.ker.length = some (.kcell tag v0 v1 v2 v3))
      (noPixel : mkPixel tag v0 v1 v2 v3 = none) :
      Move s (reservedCell { s with inbox := later })

/-- An access that leaves the input memories alone. -/
theorem Move.port (s : State) (imgW imgH : BitVec 16) (ksizeDefault : BitVec 8)
    (inbox : List Event) (rdata : RegWord) (fresh : Nat) :
    Move s { s with
      imgW := imgW, imgH := imgH, ksizeDefault := ksizeDefault, inbox := inbox, rdata := rdata
      fresh := fresh } :=
  .access (.inl ⟨rfl, rfl⟩) id id

/-- The engine's turn is the move of the phase's operation or of the next cell. -/
theorem move_of_engineTurn (turn : EngineNext s later)
    (h : (engineTurn { s with inbox := later }).answer = .next t) : Move s t := by
  obtain ⟨-, e⟩ | ⟨hb, ha, e⟩ | ⟨hb, ha, ⟨-, e⟩ | ⟨tag, v0, v1, v2, v3, hc, hd⟩⟩ :=
    engineTurn_cases { s with inbox := later }
  · rw [e] at h
    cases h
    exact .port s _ _ _ _ _ _
  · rw [e] at h
    exact .operation later turn hb ha h
  · rw [e] at h
    cases h
  · obtain ⟨hp, hr⟩ | ⟨p, i, hp, hi, hexec⟩ := decodeCell_cases tag v0 v1 v2 v3
    · obtain ⟨i, hi, -⟩ | ⟨why, -, e⟩ := hd
      · rw [hr] at hi
        cases hi
      · rw [e] at h
        cases h
        exact .badCell later turn hb ha hc hp
    · obtain ⟨j, hj, e⟩ | ⟨why, hr, -⟩ := hd
      · obtain rfl : i = j := by simpa [hi] using hj
        rw [e] at h
        obtain rfl : putCell p { s with inbox := later } = t := by
          simpa [Plan.answer, hexec _ hb] using h
        exact .cell later turn hb ha hc hp
      · rw [hi] at hr
        cases hr

/-- A command word is dropped, performed, or illegal. -/
theorem move_of_commandTurn {w : RegWord} (event : s.inbox = .regWrite 0x00 w :: later)
    (h : (commandTurn w { s with inbox := later }).answer = .next t) : Move s t := by
  obtain ⟨-, e⟩ | ⟨hb, i, hd, e⟩ | ⟨hb, why, hd, e⟩ := commandTurn_cases w { s with inbox := later }
  · rw [e] at h
    cases h
    exact .port s _ _ _ _ _ _
  · rw [e] at h
    exact .command later event hb hd h
  · rw [e] at h
    cases h
    exact .illegal later event hb hd

/-- A host write to `REG` is a command at offset 0, else the store of a field. -/
theorem move_of_regWriteTurn {off : Nat} {v : RegWord} (event : s.inbox = .regWrite off v :: later)
    (h : (regWriteTurn off v { s with inbox := later }).answer = .next t) : Move s t := by
  unfold regWriteTurn at h
  split_ifs at h with hal h0
  · cases h
  · subst h0
    exact move_of_commandTurn event h
  · cases h
    rw [regStore_eq]
    exact .port s _ _ _ _ _ _

/-- Every step is one of the moves. -/
theorem move_of_step (h : step s = .next t) : Move s t := by
  cases hin : s.inbox with
  | nil =>
    have turn : EngineNext s [] := .inr ⟨hin, rfl⟩
    exact move_of_engineTurn turn (step_engineNext turn ▸ h)
  | cons e later =>
    rw [step_cons hin] at h
    cases e with
    | engine => exact move_of_engineTurn (.inl hin) h
    | regWrite off v => exact move_of_regWriteTurn hin h
    | regRead off =>
      simp only [eventTurn] at h
      split_ifs at h <;> cases h
      rw [regRead_eq]
      exact .port s _ _ _ _ _ _
    | imemWrite a v =>
      obtain ⟨hb, rfl⟩ := inputAccess_next h
      exact .access (.inr hb) (fun hw => memory_set_wf hw a v) id
    | imemRead a =>
      obtain ⟨-, rfl⟩ := inputAccess_next h
      exact .port s _ _ _ _ _ _
    | kmemWrite a v =>
      obtain ⟨hb, rfl⟩ := inputAccess_next h
      exact .access (.inr hb) id (fun hw => memory_set_wf hw a v)
    | kmemRead a =>
      obtain ⟨-, rfl⟩ := inputAccess_next h
      exact .port s _ _ _ _ _ _
    | omemRead a =>
      obtain ⟨r, n, rfl⟩ := omemRead_next h
      exact .port s _ _ _ _ _ _
    | reset =>
      cases h
      exact .reset later hin

end Sys2Proof.Machine
end

section
/-! The registers as the host sees them, and the dispatch of a step. -/

namespace Sys2Proof.Machine

variable {s : State} {later : List Event}

theorem step_regRead {off : Nat} (h : s.inbox = .regRead off :: later) (hal : off % 4 = 0) :
    step s = .next (regRead off { s with inbox := later }) := by
  rw [step_cons h]
  simp [eventTurn, hal, Plan.answer]

theorem step_regStore {off : Nat} {v : RegWord} (h : s.inbox = .regWrite off v :: later)
    (hal : off % 4 = 0) (h0 : off ≠ 0) :
    step s = .next (regStore off v { s with inbox := later }) := by
  rw [step_cons h]
  simp [eventTurn, regWriteTurn, hal, h0, Plan.answer]

/-- The phase a read shows is `IDLE` exactly while `BUSY = 0` (R12). -/
theorem shownPhase_eq_zero : shownPhase s = 0 ↔ s.mode ≠ .busy := by
  unfold shownPhase
  split_ifs with hb
  · exact iff_of_false (unspecifiedPhase_ne_zero _) (not_not.mpr hb)
  · exact iff_of_true rfl hb

/-- The code of each error class (R73). -/
theorem errCodeBits_toNat (e : ErrCode) : (errCodeBits e).toNat =
    match e with
    | .none => 0
    | .invalidSource => 1
    | .kernelShape => 2
    | .degenerateKernel => 3
    | .configuration => 4 := by
  cases e <;> rfl

end Sys2Proof.Machine

open Sys2Proof Sys2Proof.Machine

/-- Settles O43: field by field. -/
theorem resetValues : Obligations.ResetValues := by
  simp [Obligations.ResetValues, State.reset, Config.ksizeDefaultReset]

/-- Settles O45: what a read returns is the `STATUS` word of the mode and the shown phase. -/
theorem statusRead : Obligations.StatusRead := by
  intro s later h
  obtain ⟨hbusy, hdone, herror, hbit3, hphase, hhigh⟩ := statusWord_fields s.mode (shownPhase s)
  refine ⟨_, step_regRead h (by decide), ?_⟩
  rw [regRead_eq]
  exact ⟨hbusy, hdone, herror, hbit3, hhigh, fun hb => hphase.trans (shownPhase_eq_zero.mpr hb),
    fun hb h0 => shownPhase_eq_zero.mp (hphase.symm.trans h0) hb, rfl⟩

/-- Settles O46: away from `STATUS` the value read does not depend on the phase. -/
theorem registerReads : Obligations.RegisterReads := by
  intro s off later h hal hoff
  refine ⟨_, step_regRead h hal, ?_⟩
  rw [regRead_eq]
  refine ⟨?_, rfl⟩
  simp only [regValue, if_neg hoff, apply_ite BitVec.toNat, BitVec.toNat_setWidth_of_le,
    Nat.reduceLeDiff, errCodeBits_toNat]
  rfl

/-- Settles O47: the offset chooses the field. -/
theorem registerWrites : Obligations.RegisterWrites := by
  intro s off v later h hal h0
  rw [step_regStore h hal h0, regStore_eq]

/-- Settles O50: a byte with a specified value is what the host reads. -/
theorem outputReadsAsWritten : Obligations.OutputReadsAsWritten := by
  intro s a v later h ha hvalid hget
  have hin : ¬ Config.imageBytes ≤ a := by unfold Config.imageBytes; omega
  rw [step_cons h]
  simp [eventTurn, Plan.answer, omemRead, hin, outputByte, hvalid, hget]

/-- Settles O52: the choice of the operation reads the mode, the phase, the working registers and
`KMEM`, none of which the removal of an event changes. -/
theorem stepRunsTheDecodedOperation : Obligations.StepRunsTheDecodedOperation := by
  intro s s' later i _
  refine ⟨fun w h hb hd => ?_, fun turn => ?_⟩
  · rw [step_cons h]
    exact congrArg Plan.answer (commandTurn_of_ok (s := { s with inbox := later }) hb hd)
  · obtain ⟨rest, rfl, hstep⟩ : ∃ rest, s' = { s with inbox := rest } ∧
        step s = (engineTurn s').answer := by
      obtain ⟨h, rfl⟩ | ⟨h, rfl⟩ := turn
      · exact ⟨later, rfl, step_cons h⟩
      · exact ⟨s'.inbox, rfl, step_nil h⟩
    refine ⟨fun hb => ?_, fun hb hcell hd => ?_, fun c hb hp hdec hc hd => ?_⟩
    · rw [hstep, engineTurn_of_not_busy]
      exacts [rfl, hb]
    · obtain rfl : decodeSeq s.phase = i := by simpa [decode] using hd
      rw [hstep, engineTurn_of_phase]
      exacts [rfl, hb, Bool.eq_false_iff.mpr (mt atCell_iff.mp hcell)]
    · rw [hstep, engineTurn_of_cell]
      exacts [rfl, hb, atCell_iff.mpr ⟨hp, hdec⟩, hc, hd]

/-- Settles O56: the memories are empty, the record is clear and no pass runs. -/
theorem invariantHoldsAtReset : Obligations.InvariantHoldsAtReset where
  imemWf := .nil
  omemWf := .nil
  kmemWf := .nil
  phase := by decide
  errCode := by decide
  errRecord _ := ⟨rfl, rfl, rfl⟩
  valid := by decide
  doneValid := by decide
  exchange := by decide
  pass := by simp [State.reset]

end

section
/-! The working registers through a coordinate (10_state.md R27): what each operation's rule needs,
what it gives, as facts about `PassOk` alone. -/

namespace Sys2Proof.Machine

variable {imem omem : List Host.Cell} {kmem : List (Nat × Half)} {w w' : Work}

/-! ### Registers a later operation writes do not matter to an earlier one's rule -/

theorem ScanOk.update (h : ScanOk w) {left right top bottom : BitVec 16}
    {rows cols krows kcols : BitVec 8} {win : List Sample} {krec : List Half} {ker : List Weight}
    {decoding : Bool} {ksum asum quot : Lanes} :
    ScanOk { w with
      left := left, right := right, top := top, bottom := bottom, rows := rows, cols := cols
      krows := krows, kcols := kcols, win := win, krec := krec, ker := ker, decoding := decoding
      ksum := ksum, asum := asum, quot := quot } where
  width := h.width
  height := h.height
  size := h.size
  half := h.half
  inRow := h.inRow
  inColumn := h.inColumn

theorem AreaOk.update (h : AreaOk imem w) {krows kcols : BitVec 8} {krec : List Half}
    {ker : List Weight} {decoding : Bool} {ksum asum quot : Lanes} :
    AreaOk imem { w with
      krows := krows, kcols := kcols, krec := krec, ker := ker, decoding := decoding
      ksum := ksum, asum := asum, quot := quot } where
  left := h.left
  top := h.top
  right := h.right
  bottom := h.bottom
  rows := h.rows
  cols := h.cols
  win := h.win

theorem HeaderOk.update (h : HeaderOk kmem w) {ker : List Weight} {decoding : Bool}
    {ksum asum quot : Lanes} :
    HeaderOk kmem { w with
      ker := ker, decoding := decoding, ksum := ksum, asum := asum, quot := quot } where
  fromStatic := h.fromStatic
  fromGenerator := h.fromGenerator

/-! ### COLLECT -/

/-- A number that fits a register comes back from it. -/
theorem toNat_ofNat_of_lt {n a : Nat} (h : a < 2 ^ n) : (BitVec.ofNat n a).toNat = a := by
  rw [BitVec.toNat_ofNat, Nat.mod_eq_of_lt h]

/-- At `COLLECT` only the scan position and the output so far have a rule (R27). -/
theorem passOk_collect (scan : ScanOk w) (notDecoding : w.decoding = false)
    (written : ∀ a, (Memory.get omem a).isSome ↔ a < 4 * pixelsBefore w)
    (opaqueAlpha : ∀ k, k < pixelsBefore w → Memory.get omem (4 * k + 3) = some 255) :
    PassOk imem omem kmem 0b001 w where
  scan := scan
  area hp := absurd hp (by decide)
  header hp := absurd hp (by decide)
  cells hd := absurd (notDecoding.symm.trans hd) (by decide)
  kernel hp := absurd hp (by decide)
  sums hp := absurd hp (by decide)
  weighted hp := absurd hp (by decide)
  quotients hp := absurd hp (by decide)
  written := written
  opaqueAlpha := opaqueAlpha

/-- The half size is at most 127 (R20). -/
theorem latHalf_le (w : Work) : w.latHalf.toNat ≤ 127 := by
  have := w.latHalf.isLt
  omega

/-- The Area of a coordinate fits the Area registers (R98). -/
theorem currentBox_bounds (scan : ScanOk w) :
    (currentBox w).left < 2 ^ 16 ∧ (currentBox w).top < 2 ^ 16 ∧ (currentBox w).right < 2 ^ 16 ∧
    (currentBox w).bottom < 2 ^ 16 ∧ boxRows (currentBox w) < 2 ^ 8 ∧
    boxCols (currentBox w) < 2 ^ 8 := by
  have hhalf := latHalf_le w
  have hW := w.latW.isLt
  have hH := w.latH.isLt
  have hx := scan.inRow
  have hy := scan.inColumn
  simp only [boxRows, boxCols, currentBox, areaBox]
  omega

/-- `COLLECT` that answers was inside the image, and wrote the Area of the coordinate. -/
theorem collectWork_some (hc : collectWork imem w = some w') :
    ∃ px, sampleWindow imem w.latW.toNat w.latH.toNat (currentBox w) = some px ∧
      w' = { w with
        left := BitVec.ofNat 16 (currentBox w).left
        top := BitVec.ofNat 16 (currentBox w).top
        right := BitVec.ofNat 16 (currentBox w).right
        bottom := BitVec.ofNat 16 (currentBox w).bottom
        rows := BitVec.ofNat 8 (boxRows (currentBox w))
        cols := BitVec.ofNat 8 (boxCols (currentBox w))
        win := px } := by
  unfold collectWork at hc
  split_ifs at hc
  dsimp only at hc
  split at hc <;> cases hc
  exact ⟨_, ‹_›, rfl⟩

theorem PassOk.collect (h : PassOk imem omem kmem 0b001 w) (hc : collectWork imem w = some w') :
    PassOk imem omem kmem 0b010 w' := by
  obtain ⟨px, hpx, rfl⟩ := collectWork_some hc
  obtain ⟨hleft, htop, hright, hbottom, hrows, hcols⟩ := currentBox_bounds h.scan
  exact {
    scan := h.scan.update
    area := fun _ => {
      left := toNat_ofNat_of_lt hleft
      top := toNat_ofNat_of_lt htop
      right := toNat_ofNat_of_lt hright
      bottom := toNat_ofNat_of_lt hbottom
      rows := toNat_ofNat_of_lt hrows
      cols := toNat_ofNat_of_lt hcols
      win := hpx }
    header := fun hp => absurd hp (by decide)
    cells := fun hd => absurd (h.cells hd).1 (by decide)
    kernel := fun hp => absurd hp (by decide)
    sums := fun hp => absurd hp (by decide)
    weighted := fun hp => absurd hp (by decide)
    quotients := fun hp => absurd hp (by decide)
    written := h.written
    opaqueAlpha := h.opaqueAlpha }

/-! ### KRESOLVE and KCHECK -/

/-- The header comes in, with the record it belongs to. -/
theorem PassOk.header_in (h : PassOk imem omem kmem 0b010 w) {krows kcols : BitVec 8}
    {krec : List Half}
    (hh : HeaderOk kmem { w with krows := krows, kcols := kcols, krec := krec }) :
    PassOk imem omem kmem 0b011 { w with krows := krows, kcols := kcols, krec := krec } where
  scan := h.scan.update
  area _ := (h.area (by decide)).update
  header _ := hh
  cells hd := absurd (h.cells hd).1 (by decide)
  kernel hp := absurd hp (by decide)
  sums hp := absurd hp (by decide)
  weighted hp := absurd hp (by decide)
  quotients hp := absurd hp (by decide)
  written := h.written
  opaqueAlpha := h.opaqueAlpha

/-- The loop over the cells stands before a cell of the record, with the cells so far expanded. -/
theorem PassOk.cells_so_far (h : PassOk imem omem kmem 0b011 w) (hrows : w.krows = w.rows)
    (hcols : w.kcols = w.cols) {ker : List Weight} {decoding : Bool}
    (hlt : ker.length < w.rows.toNat * w.cols.toNat)
    (hker : expandCells (recordOf kmem w) 0 ker.length = .kernel ker) :
    PassOk imem omem kmem 0b011 { w with ker := ker, decoding := decoding } where
  scan := h.scan.update
  area _ := (h.area (by decide)).update
  header _ := (h.header (by decide)).update
  cells _ := ⟨rfl, hrows, hcols, hlt, hker⟩
  kernel hp := absurd hp (by decide)
  sums hp := absurd hp (by decide)
  weighted hp := absurd hp (by decide)
  quotients hp := absurd hp (by decide)
  written := h.written
  opaqueAlpha := h.opaqueAlpha

/-- The loop over the cells has ended, with every cell expanded. -/
theorem PassOk.cells_all (h : PassOk imem omem kmem 0b011 w) (hrows : w.krows = w.rows)
    (hcols : w.kcols = w.cols) {ker : List Weight}
    (hlen : ker.length = w.rows.toNat * w.cols.toNat)
    (hker : expandCells (recordOf kmem w) 0 ker.length = .kernel ker) :
    PassOk imem omem kmem 0b100 { w with ker := ker, decoding := false } where
  scan := h.scan.update
  area _ := (h.area (by decide)).update
  header _ := (h.header (by decide)).update
  cells hd := absurd hd Bool.false_ne_true
  kernel _ := ⟨hrows, hcols, hlen, hlen ▸ hker⟩
  sums hp := absurd hp (by decide)
  weighted hp := absurd hp (by decide)
  quotients hp := absurd hp (by decide)
  written := h.written
  opaqueAlpha := h.opaqueAlpha

/-- The Area has a cell (R98), so the loop over the cells begins at one. -/
theorem AreaOk.cells_pos (h : AreaOk imem w) : 0 < w.rows.toNat * w.cols.toNat := by
  rw [h.rows, h.cols]
  exact Nat.mul_pos (Nat.succ_pos _) (Nat.succ_pos _)

/-! ### KSUM, MAC, NORM -/

/-- Once the kernel is whole, the sums and quotients are all that changes before `WRITE`. -/
theorem PassOk.sums_in {p q : BitVec 3} (h : PassOk imem omem kmem p w) (hp : 4 ≤ p.toNat)
    {ksum asum quot : Lanes} (sums : 5 ≤ q.toNat → ksum = ksumOf w.ker ∧ zeroLanes ksum = 0)
    (weighted : 6 ≤ q.toNat → asum = asumOf w.win w.ker)
    (quotients : q = 0b111 → quot = quotOf asum ksum) :
    PassOk imem omem kmem q { w with ksum := ksum, asum := asum, quot := quot } where
  scan := h.scan.update
  area _ := (h.area (by omega)).update
  header _ := (h.header (by omega)).update
  cells hd := by
    have hphase := (h.cells hd).1
    subst hphase
    exact absurd hp (by decide)
  kernel _ := h.kernel hp
  sums := sums
  weighted := weighted
  quotients := quotients
  written := h.written
  opaqueAlpha := h.opaqueAlpha

/-! ### WRITE -/

/-- A pixel stored behind the `n` before it: the output is the `n + 1` pixels. -/
theorem storePixel_isSome {n : Nat} (h : ∀ a, (Memory.get omem a).isSome ↔ a < 4 * n) (p : Sample)
    (a : Nat) : (Memory.get (storePixel omem (4 * n) p) a).isSome ↔ a < 4 * (n + 1) := by
  rw [storePixel_get]
  split_ifs
  case neg => rw [h]; omega
  all_goals simp only [Option.isSome_some, true_iff]; omega

/-- Its alpha joins theirs. -/
theorem storePixel_alpha {n : Nat} {v : Byte}
    (h : ∀ k, k < n → Memory.get omem (4 * k + 3) = some v) {p : Sample} (hp : p.a = v) (k : Nat)
    (hk : k < n + 1) : Memory.get (storePixel omem (4 * n) p) (4 * k + 3) = some v := by
  rw [storePixel_get]
  obtain hlt | rfl := Nat.lt_succ_iff_lt_or_eq.mp hk
  · rw [if_neg (by omega), if_neg (by omega), if_neg (by omega), if_neg (by omega), h k hlt]
  · rw [if_neg (by omega), if_neg (by omega), if_neg (by omega), if_pos rfl, hp]

/-- The offset of the coordinate is that of the pixel behind those before it (R86, R144). -/
theorem offset_current {off : Nat}
    (h : offset w.latW.toNat w.latH.toNat w.curX.toNat w.curY.toNat = some off) :
    off = 4 * pixelsBefore w := by
  unfold offset at h
  split_ifs at h
  cases h
  exact Nat.mul_comm _ _

/-- The scan goes on to the next coordinate, with the coordinate's pixel stored. -/
theorem PassOk.next_coordinate {p : BitVec 3} (h : PassOk imem omem kmem p w)
    (hd : w.decoding = false) {px : Sample} (halpha : px.a = 255) {x y : Nat}
    (hnext : nextPos w.latW.toNat w.latH.toNat w.curX.toNat w.curY.toNat = some (x, y)) :
    PassOk imem (storePixel omem (4 * pixelsBefore w) px) kmem 0b001
      { w with curX := BitVec.ofNat 16 x, curY := BitVec.ofNat 16 y } := by
  obtain ⟨x', y', e, hx, hy, hpos⟩ | ⟨e, -⟩ := nextPos_spec h.scan.inRow h.scan.inColumn
  · obtain ⟨rfl, rfl⟩ : x' = x ∧ y' = y := by simpa [hnext, eq_comm] using e
    have ex : (BitVec.ofNat 16 x').toNat = x' := toNat_ofNat_of_lt (hx.trans w.latW.isLt)
    have ey : (BitVec.ofNat 16 y').toNat = y' := toNat_ofNat_of_lt (hy.trans w.latH.isLt)
    have hbefore : pixelsBefore { w with curX := BitVec.ofNat 16 x', curY := BitVec.ofNat 16 y' } =
        pixelsBefore w + 1 := by
      simpa only [pixelsBefore, ex, ey] using hpos
    refine passOk_collect ?_ hd ?_ ?_
    · exact { h.scan with inRow := ex.trans_lt hx, inColumn := ey.trans_lt hy }
    · rw [hbefore]
      exact storePixel_isSome h.written px
    · rw [hbefore]
      exact storePixel_alpha h.opaqueAlpha halpha
  · rw [hnext] at e
    cases e

end Sys2Proof.Machine
end

section
/-! The invariant of a step, move by move: states in which no pass runs, then the operations of a
pass. -/

namespace Sys2Proof.Machine

variable {s t : State}

/-! ### While no pass runs -/

/-- What the host's accesses change, the invariant does not speak of, but for an input memory, which
they change only while `BUSY = 0`. -/
theorem State.Inv.access (h : s.Inv) {imgW imgH : BitVec 16} {ksizeDefault : BitVec 8}
    {imem : List Host.Cell} {kmem : List (Nat × Half)} {inbox : List Event} {rdata : RegWord}
    {fresh : Nat} (inputs : imem = s.imem ∧ kmem = s.kmem ∨ s.mode ≠ .busy)
    (imemWf : Memory.wf imem) (kmemWf : Memory.wf kmem) :
    State.Inv { s with
      imgW := imgW, imgH := imgH, ksizeDefault := ksizeDefault, imem := imem, kmem := kmem
      inbox := inbox, rdata := rdata, fresh := fresh } where
  imemWf := imemWf
  omemWf := h.omemWf
  kmemWf := kmemWf
  phase := h.phase
  errCode := h.errCode
  errRecord := h.errRecord
  valid := h.valid
  doneValid := h.doneValid
  exchange := h.exchange
  pass hb := by
    obtain ⟨rfl, rfl⟩ | hn := inputs
    · exact h.pass hb
    · exact absurd hb hn

theorem State.Inv.withInbox (h : s.Inv) (later : List Event) :
    State.Inv { s with inbox := later } :=
  h.access (.inl ⟨rfl, rfl⟩) h.imemWf h.kmemWf

/-- No exchange is open outside `KRESOLVE`. -/
theorem State.Inv.closed (h : s.Inv) (hp : s.phase ≠ 0b010) : s.genOpen = false :=
  Bool.eq_false_iff.mpr fun hg => hp (h.exchange hg).2.1

theorem State.Inv.closed_of_not_busy (h : s.Inv) (hb : s.mode ≠ .busy) : s.genOpen = false :=
  h.closed (by simp [h.phase.mpr hb])

theorem State.Inv.phase_ne_zero (h : s.Inv) (hb : s.mode = .busy) : s.phase ≠ 0 :=
  fun h0 => h.phase.mp h0 hb

/-- Entry into `ERROR` (R160), from any state with canonical memories and no exchange open. -/
theorem raise_inv {e : ErrCode} (he : e ≠ .none) (imemWf : Memory.wf s.imem)
    (omemWf : Memory.wf s.omem) (kmemWf : Memory.wf s.kmem) (hg : s.genOpen = false)
    (x y : BitVec 16) (info : RegWord) : (raise e x y info s).Inv where
  imemWf := imemWf
  omemWf := omemWf
  kmemWf := kmemWf
  phase := by simp
  errCode := by simp [he]
  errRecord := by simp
  valid := by simp
  doneValid := by simp
  exchange := by simp [hg]
  pass := by simp

theorem raiseInPass_inv (h : s.Inv) (hg : s.genOpen = false) {e : ErrCode} (he : e ≠ .none)
    (info : RegWord) : (raiseInPass e info s).Inv :=
  raise_inv (s := dropOutput s) he h.imemWf .nil h.kmemWf hg _ _ _

theorem clearRecord_inv (h : s.Inv) (hb : s.mode ≠ .busy) : (clearRecord s).Inv where
  imemWf := h.imemWf
  omemWf := h.omemWf
  kmemWf := h.kmemWf
  phase := by simp [h.phase.mpr hb]
  errCode := by simp
  errRecord := by simp
  valid := by simp
  doneValid := by simp
  exchange := by simp [h.closed_of_not_busy hb]
  pass := by simp

theorem resetMachine_inv (h : s.Inv) : (resetMachine s).Inv where
  imemWf := h.imemWf
  omemWf := .nil
  kmemWf := h.kmemWf
  phase := by simp
  errCode := by simp
  errRecord := by simp
  valid := by simp
  doneValid := by simp
  exchange := by simp
  pass := by simp

theorem illegalCommand_inv (h : s.Inv) (hb : s.mode ≠ .busy) : (illegalCommand s).Inv :=
  raise_inv (s := clearRecord s) (by decide) h.imemWf h.omemWf h.kmemWf
    (h.closed_of_not_busy hb) _ _ _

/-! ### Host commands -/

theorem toNat_pos {n : Nat} {x : BitVec n} (h : x ≠ 0) : 0 < x.toNat :=
  Nat.pos_of_ne_zero fun h0 => h (BitVec.eq_of_toNat_eq (by simpa using h0))

/-- A pass starts (R138 step 4) from a cleared record and an output dropped. -/
theorem startPass_inv (h : s.Inv) (hb : s.mode ≠ .busy) (hW : s.imgW ≠ 0) (hH : s.imgH ≠ 0)
    (ksrc : KernelSource) {size : BitVec 8} (hsize : size ≠ 0) :
    (startPass ksrc size (dropOutput (clearRecord s))).Inv where
  imemWf := h.imemWf
  omemWf := .nil
  kmemWf := h.kmemWf
  phase := by simp
  errCode := by simp
  errRecord := by simp
  valid := by simp
  doneValid := by simp
  exchange := by simp [h.closed_of_not_busy hb]
  pass _ := passOk_collect
    { width := toNat_pos hW
      height := toNat_pos hH
      size := hsize
      half := rfl
      inRow := toNat_pos hW
      inColumn := toNat_pos hH }
    rfl (by simp [pixelsBefore]) (by simp [pixelsBefore])

theorem execConvolve_inv (h : s.Inv) (hb : s.mode ≠ .busy) {srcTag : BitVec 4}
    {ksrc : KernelSource} {sizeValid : Bool} {size : BitVec 8}
    (he : execConvolve srcTag ksrc sizeValid size s = .next t) : t.Inv := by
  rw [execConvolve, if_neg hb] at he
  cases he
  have raised : ∀ (e : ErrCode) info, e ≠ .none →
      (raise e 0 0 info (dropOutput (clearRecord s))).Inv := fun e info hne =>
    raise_inv (s := dropOutput (clearRecord s)) hne h.imemWf .nil h.kmemWf
      (h.closed_of_not_busy hb) 0 0 info
  unfold acceptPass
  split_ifs with hsource hsize
  · exact raised _ _ (by decide)
  · exact raised _ _ (by decide)
  · obtain ⟨-, hW, hH⟩ := by simpa only [not_or] using hsource
    exact startPass_inv h hb hW hH ksrc hsize

theorem execAck_inv (h : s.Inv) (hb : s.mode ≠ .busy) (he : execAck s = .next t) : t.Inv := by
  unfold execAck at he
  split at he <;> cases he
  · exact h
  · exact h
  · exact clearRecord_inv h hb
  · exact clearRecord_inv h hb

/-- A command keeps the invariant. -/
theorem exec_command_inv (h : s.Inv) (hb : s.mode ≠ .busy) {i : Instr} (hi : i.format = .cmd)
    (he : exec i s = .next t) : t.Inv := by
  cases i with
  | nop => cases he; exact h
  | convolve => exact execConvolve_inv h hb he
  | ack => exact execAck_inv h hb he
  | _ => cases hi

/-! ### Operations of a pass -/

/-- An operation that stays in the pass keeps the invariant when it keeps what holds of the working
registers. -/
theorem State.Inv.inPass (h : s.Inv) (hb : s.mode = .busy) {p : BitVec 3} {w : Work}
    {omem : List Host.Cell} {genOpen : Bool} {genOut genIn : List (List Half)} (hp : p ≠ 0)
    (omemWf : Memory.wf omem) (exchange : genOpen = true → p = 0b010 ∧ w.latKsrc = .generator)
    (pass : PassOk s.imem omem s.kmem p w) :
    State.Inv { s with
      phase := p, work := w, omem := omem, genOpen := genOpen, genOut := genOut
      genIn := genIn } where
  imemWf := h.imemWf
  omemWf := omemWf
  kmemWf := h.kmemWf
  phase := iff_of_false hp (not_not.mpr hb)
  errCode := h.errCode
  errRecord := h.errRecord
  valid := h.valid
  doneValid := h.doneValid
  exchange hg := ⟨hb, exchange hg⟩
  pass _ := pass

/-- The same for an operation other than `KRESOLVE`, the exchange being closed. -/
theorem State.Inv.inPass_closed (h : s.Inv) (hb : s.mode = .busy) (hg : s.genOpen = false)
    {p : BitVec 3} {w : Work} {omem : List Host.Cell} (hp : p ≠ 0) (omemWf : Memory.wf omem)
    (pass : PassOk s.imem omem s.kmem p w) :
    State.Inv { s with phase := p, work := w, omem := omem } :=
  h.inPass hb hp omemWf (fun ho => absurd ho (by simp [hg])) pass

/-- What holds of the working registers at the phase the engine is in. -/
theorem State.Inv.passAt (h : s.Inv) (hb : s.mode = .busy) {p : BitVec 3} (hp : s.phase = p) :
    PassOk s.imem s.omem s.kmem p s.work :=
  hp ▸ h.pass hb

theorem execCollect_inv (h : s.Inv) (hb : s.mode = .busy) (hp : s.phase = 0b001)
    (he : execCollect s = .next t) : t.Inv := by
  rw [execCollect, whenBusy_of_busy hb] at he
  split at he <;> cases he
  exact h.inPass_closed hb (h.closed (by simp [hp])) (by decide) h.omemWf
    ((h.passAt hb hp).collect ‹_›)

/-- The sending half of an exchange opens it and changes nothing else but the records sent. -/
theorem sendArea_eq (s : State) :
    ∃ out, sendArea s = { s with genOpen := true, genOut := out } := by
  unfold sendArea
  split_ifs with hg
  · exact ⟨s.genOut, by rw [← hg]⟩
  · exact ⟨_, rfl⟩

theorem execKresolve_inv (h : s.Inv) (hb : s.mode = .busy) (hp : s.phase = 0b010)
    (he : execKresolve s = .next t) : t.Inv := by
  have pass := h.passAt hb hp
  rw [execKresolve, whenBusy_of_busy hb] at he
  cases hk : s.work.latKsrc with
  | static =>
    rw [hk] at he
    cases he
    refine h.inPass_closed hb (Bool.eq_false_iff.mpr fun hg => ?_) (by decide) h.omemWf
      (pass.header_in ⟨fun _ => ⟨rfl, rfl⟩, fun hgen => ?_⟩)
    · exact absurd (hk.symm.trans (h.exchange hg).2.2) (by decide)
    · exact absurd (hk.symm.trans hgen) (by decide)
  | generator =>
    rw [hk] at he
    cases he
    obtain ⟨out, hsend⟩ := sendArea_eq s
    rw [hsend]
    obtain ⟨e, -⟩ | ⟨answer, later, header, cells, -, htake, e⟩ :=
      receiveRecord_cases { s with genOpen := true, genOut := out }
    · rw [e]
      exact h.inPass hb (h.phase_ne_zero hb) h.omemWf (fun _ => ⟨hp, hk⟩) (h.pass hb)
    · rw [e]
      obtain ⟨_, -, whole⟩ := takeAnswer_some htake
      refine h.inPass hb (by decide) h.omemWf (fun ho => absurd ho Bool.false_ne_true)
        (pass.header_in ⟨fun hst => ?_, fun _ => ?_⟩)
      · exact absurd (hk.symm.trans hst) (by decide)
      · exact ⟨header, cells, rfl, rfl, rfl, fun hr hc => (whole hr hc).2⟩

theorem execKcheck_inv (h : s.Inv) (hb : s.mode = .busy) (hp : s.phase = 0b011)
    (he : execKcheck s = .next t) : t.Inv := by
  have pass := h.passAt hb hp
  have hg := h.closed (by simp [hp])
  rw [execKcheck, whenBusy_of_busy hb] at he
  split_ifs at he with hshape <;> cases he
  · exact raiseInPass_inv h hg (by decide) _
  · obtain ⟨hrows, hcols⟩ : s.work.krows = s.work.rows ∧ s.work.kcols = s.work.cols := by
      simpa only [not_or, not_not] using hshape
    have := h.inPass_closed hb hg (by decide) h.omemWf (pass.cells_so_far hrows hcols
      (ker := []) (decoding := true) (pass.area (by decide)).cells_pos rfl)
    rwa [← hp] at this

theorem execKsum_inv (h : s.Inv) (hb : s.mode = .busy) (hp : s.phase = 0b100)
    (he : execKsum s = .next t) : t.Inv := by
  have hg := h.closed (by simp [hp])
  rw [execKsum, whenBusy_of_busy hb] at he
  split_ifs at he with hzero <;> cases he
  · exact raiseInPass_inv h hg (by decide) _
  · exact h.inPass_closed hb hg (by decide) h.omemWf ((h.passAt hb hp).sums_in (by decide)
      (fun _ => ⟨rfl, not_not.mp hzero⟩) (fun hq => absurd hq (by decide))
      (fun hq => absurd hq (by decide)))

theorem execMac_inv (h : s.Inv) (hb : s.mode = .busy) (hp : s.phase = 0b101)
    (he : execMac s = .next t) : t.Inv := by
  have pass := h.passAt hb hp
  rw [execMac, whenBusy_of_busy hb] at he
  cases he
  exact h.inPass_closed hb (h.closed (by simp [hp])) (by decide) h.omemWf
    (pass.sums_in (by decide) (fun _ => pass.sums (by decide)) (fun _ => rfl)
      (fun hq => absurd hq (by decide)))

theorem execNorm_inv (h : s.Inv) (hb : s.mode = .busy) (hp : s.phase = 0b110)
    (he : execNorm s = .next t) : t.Inv := by
  have pass := h.passAt hb hp
  have hg := h.closed (by simp [hp])
  rw [execNorm, whenBusy_of_busy hb] at he
  split_ifs at he with hzero <;> cases he
  · exact raiseInPass_inv h hg (by decide) _
  · exact h.inPass_closed hb hg (by decide) h.omemWf (pass.sums_in (by decide)
      (fun _ => pass.sums (by decide)) (fun _ => pass.weighted (by decide)) (fun _ => rfl))

theorem complete_inv (h : s.Inv) (hb : s.mode = .busy) (hg : s.genOpen = false)
    {omem : List Host.Cell} (omemWf : Memory.wf omem) :
    (complete { s with omem := omem }).Inv where
  imemWf := h.imemWf
  omemWf := omemWf
  kmemWf := h.kmemWf
  phase := by simp
  errCode := by simp [h.errCode, hb]
  errRecord _ := h.errRecord (by simp [hb])
  valid := by simp
  doneValid := by simp
  exchange := by simp [hg]
  pass := by simp

theorem execWrite_inv (h : s.Inv) (hb : s.mode = .busy) (hp : s.phase = 0b111)
    (he : execWrite s = .next t) : t.Inv := by
  have pass := h.passAt hb hp
  have hg := h.closed (by simp [hp])
  rw [execWrite, whenBusy_of_busy hb] at he
  cases hoff : offset s.work.latW.toNat s.work.latH.toNat s.work.curX.toNat s.work.curY.toNat with
  | none => simp [hoff] at he
  | some off =>
    rw [hoff] at he
    cases he
    obtain rfl := offset_current hoff
    have omemWf := storePixel_wf h.omemWf (4 * pixelsBefore s.work) (outPixel s.work.quot)
    have hd : s.work.decoding = false :=
      Bool.eq_false_iff.mpr fun hd => absurd (pass.cells hd).1 (by decide)
    obtain ⟨x, y, hnext, e⟩ | ⟨-, e⟩ := advance_cases { s with
      omem := storePixel s.omem (4 * pixelsBefore s.work) (outPixel s.work.quot) }
    · rw [e]
      exact h.inPass_closed hb hg (by decide) omemWf (pass.next_coordinate hd rfl hnext)
    · rw [e]
      exact complete_inv h hb hg omemWf

theorem phase_cases (p : BitVec 3) :
    p = 0 ∨ p = 1 ∨ p = 2 ∨ p = 3 ∨ p = 4 ∨ p = 5 ∨ p = 6 ∨ p = 7 := by
  revert p
  decide

/-- The operation of the phase keeps the invariant. -/
theorem exec_phase_inv (h : s.Inv) (hb : s.mode = .busy)
    (he : exec (decodeSeq s.phase) s = .next t) : t.Inv := by
  obtain hp | hp | hp | hp | hp | hp | hp | hp := phase_cases s.phase <;> rw [hp] at he
  · exact absurd hp (h.phase_ne_zero hb)
  · exact execCollect_inv h hb hp he
  · exact execKresolve_inv h hb hp he
  · exact execKcheck_inv h hb hp he
  · exact execKsum_inv h hb hp he
  · exact execMac_inv h hb hp he
  · exact execNorm_inv h hb hp he
  · exact execWrite_inv h hb hp he

/-- A cell keeps the invariant: the buffer is the expansion of one more cell. -/
theorem putCell_inv (h : s.Inv) (hb : s.mode = .busy) (ha : atCell s = true)
    {tag v0 v1 v2 v3 : Half} {p : Weight}
    (hc : cellCode (recordHalf s) s.work.ker.length = some (.kcell tag v0 v1 v2 v3))
    (hpx : mkPixel tag v0 v1 v2 v3 = some p) : (putCell p s).Inv := by
  obtain ⟨hp, hd⟩ := atCell_iff.mp ha
  have pass := h.passAt hb hp
  have hg := h.closed (by simp [hp])
  obtain ⟨-, hrows, hcols, hlt, hker⟩ := pass.cells hd
  have grown : expandCells (recordOf s.kmem s.work) 0 (s.work.ker ++ [p]).length =
      .kernel (s.work.ker ++ [p]) := by
    rw [List.length_append]
    exact expandCells_snoc hker (by rwa [Nat.zero_add]) hpx
  unfold putCell
  split_ifs with hmore
  · have := h.inPass_closed hb hg (by decide) h.omemWf (pass.cells_so_far hrows hcols
      (decoding := s.work.decoding) (by simpa using hmore) grown)
    rwa [← hp] at this
  · exact h.inPass_closed hb hg (by decide) h.omemWf (pass.cells_all hrows hcols
      (by rw [List.length_append]; exact Nat.le_antisymm hlt (not_lt.mp hmore)) grown)

theorem reservedCell_inv (h : s.Inv) (ha : atCell s = true) : (reservedCell s).Inv :=
  raiseInPass_inv h (h.closed (by simp [(atCell_iff.mp ha).1])) (by decide) _

/-- Every move keeps the invariant. -/
theorem Move.keeps_inv (m : Move s t) (h : s.Inv) : t.Inv := by
  cases m with
  | access inputs imemWf kmemWf => exact h.access inputs (imemWf h.imemWf) (kmemWf h.kmemWf)
  | reset later => exact resetMachine_inv (h.withInbox later)
  | command later _ notBusy decoded performed =>
    exact exec_command_inv (h.withInbox later) notBusy (decodeCmd_format decoded) performed
  | illegal later _ notBusy => exact illegalCommand_inv (h.withInbox later) notBusy
  | operation later _ busy _ performed => exact exec_phase_inv (h.withInbox later) busy performed
  | cell later _ busy ha code pixel => exact putCell_inv (h.withInbox later) busy ha code pixel
  | badCell later _ _ ha => exact reservedCell_inv (h.withInbox later) ha

end Sys2Proof.Machine

/-- Settles O57: by the moves of a step. -/
theorem everyStepKeepsTheInvariant : Obligations.EveryStepKeepsTheInvariant :=
  fun _ _ h hstep => (Sys2Proof.Machine.move_of_step hstep).keeps_inv h

end

section
/-! What an operation of a pass can come to, and the output-valid condition (10_state.md R29). -/

namespace Sys2Proof.Machine

variable {s t : State}

/-- A sequencer operation in a pass raises at the coordinate, completes the pass, or stays in it,
where it touches only the phase, the working registers, the output's bytes and the exchange. -/
theorem exec_seq_cases {i : Instr} (he : exec i s = .next t) (hi : i.format = .seq)
    (hb : s.mode = .busy) :
    (∃ e info, t = raiseInPass e info s) ∨ (∃ omem, t = complete { s with omem := omem }) ∨
    ∃ phase work omem genOpen genOut genIn, t = { s with
      phase := phase, work := work, omem := omem, genOpen := genOpen, genOut := genOut
      genIn := genIn } := by
  cases i with
  | idle =>
    cases he
    exact .inr (.inr ⟨_, _, _, _, _, _, rfl⟩)
  | collect =>
    rw [exec, execCollect, whenBusy_of_busy hb] at he
    split at he <;> cases he
    exact .inr (.inr ⟨_, _, _, _, _, _, rfl⟩)
  | kresolve =>
    rw [exec, execKresolve, whenBusy_of_busy hb] at he
    split at he <;> cases he
    · exact .inr (.inr ⟨_, _, _, _, _, _, rfl⟩)
    · obtain ⟨out, hsend⟩ := sendArea_eq s
      rw [hsend]
      obtain ⟨e, -⟩ | ⟨answer, later, header, cells, -, -, e⟩ :=
        receiveRecord_cases { s with genOpen := true, genOut := out }
      · exact .inr (.inr ⟨_, _, _, _, _, _, e⟩)
      · exact .inr (.inr ⟨_, _, _, _, _, _, e⟩)
  | kcheck =>
    rw [exec, execKcheck, whenBusy_of_busy hb] at he
    split_ifs at he <;> cases he
    · exact .inl ⟨_, _, rfl⟩
    · exact .inr (.inr ⟨_, _, _, _, _, _, rfl⟩)
  | ksum =>
    rw [exec, execKsum, whenBusy_of_busy hb] at he
    split_ifs at he <;> cases he
    · exact .inl ⟨_, _, rfl⟩
    · exact .inr (.inr ⟨_, _, _, _, _, _, rfl⟩)
  | mac =>
    rw [exec, execMac, whenBusy_of_busy hb] at he
    cases he
    exact .inr (.inr ⟨_, _, _, _, _, _, rfl⟩)
  | norm =>
    rw [exec, execNorm, whenBusy_of_busy hb] at he
    split_ifs at he <;> cases he
    · exact .inl ⟨_, _, rfl⟩
    · exact .inr (.inr ⟨_, _, _, _, _, _, rfl⟩)
  | write =>
    rw [exec, execWrite, whenBusy_of_busy hb] at he
    split at he <;> cases he
    obtain ⟨x, y, -, e⟩ | ⟨-, e⟩ := advance_cases { s with
      omem := storePixel s.omem _ (outPixel s.work.quot) }
    · exact .inr (.inr ⟨_, _, _, _, _, _, e⟩)
    · exact .inr (.inl ⟨_, e⟩)
  | _ => cases hi

theorem decodeSeq_format (c : BitVec 3) : (decodeSeq c).format = .seq := by
  revert c
  decide

/-- In a pass the output becomes valid only by completion (R145). -/
theorem seq_valid_done {i : Instr} (he : exec i s = .next t) (hi : i.format = .seq)
    (hb : s.mode = .busy) (hs : s.omemValid = false) (ht : t.omemValid = true) :
    t.mode = .done := by
  obtain ⟨e, info, rfl⟩ | ⟨omem, rfl⟩ | ⟨_, _, _, _, _, _, rfl⟩ := exec_seq_cases he hi hb
  · exact absurd ht Bool.false_ne_true
  · rfl
  · exact absurd (hs.symm.trans ht) Bool.false_ne_true

theorem acceptPass_omemValid (tag : BitVec 4) (ksrc : KernelSource) (sizeValid : Bool)
    (size : BitVec 8) (s : State) :
    (acceptPass tag ksrc sizeValid size s).omemValid = s.omemValid := by
  unfold acceptPass
  split_ifs <;> rfl

/-- A command leaves the output-valid condition, but for `CONVOLVE`, which ends it (R138, R52). -/
theorem command_valid {i : Instr} (he : exec i s = .next t) (hi : i.format = .cmd)
    (hb : s.mode ≠ .busy) :
    t.omemValid = s.omemValid ∨
      t.omemValid = false ∧ ∃ tag ksrc sizeValid size, i = .convolve tag ksrc sizeValid size := by
  cases i with
  | nop =>
    cases he
    exact .inl rfl
  | ack =>
    rw [exec, execAck] at he
    split at he <;> cases he <;> exact .inl rfl
  | convolve tag ksrc sizeValid size =>
    rw [exec, execConvolve, if_neg hb] at he
    cases he
    exact .inr ⟨acceptPass_omemValid _ _ _ _ _, _, _, _, _, rfl⟩
  | _ => cases hi

/-- What a move does to the output-valid condition: nothing; in a pass, make it true by completion
only; a decoded `CONVOLVE` and reset end it. -/
theorem Move.valid_cases (m : Move s t) (inv : s.Inv) :
    t.omemValid = s.omemValid ∨
    (s.mode = .busy ∧ s.omemValid = false ∧ (t.omemValid = true → t.mode = .done)) ∨
    (t.omemValid = false ∧
      ((∃ w tag ksrc sizeValid size, (∃ later, s.inbox = .regWrite 0x00 w :: later) ∧
          decode (.cmd w) = .ok (.convolve tag ksrc sizeValid size)) ∨
        ∃ later, s.inbox = .reset :: later)) := by
  have notValid : s.mode = .busy → s.omemValid = false := fun hb =>
    Bool.eq_false_iff.mpr fun hv => inv.valid hv hb
  cases m with
  | access | illegal => exact .inl rfl
  | reset later event => exact .inr (.inr ⟨rfl, .inr ⟨later, event⟩⟩)
  | command later event notBusy decoded performed =>
    obtain e | ⟨ht, tag, ksrc, sizeValid, size, rfl⟩ :=
      command_valid performed (decodeCmd_format decoded) notBusy
    · exact .inl e
    · exact .inr (.inr ⟨ht, .inl ⟨_, tag, ksrc, sizeValid, size, ⟨later, event⟩, decoded⟩⟩)
  | operation _ _ busy _ performed =>
    exact .inr (.inl ⟨busy, notValid busy,
      seq_valid_done performed (decodeSeq_format _) busy (notValid busy)⟩)
  | cell => exact .inl (putCell_omemValid _ _)
  | badCell _ _ busy =>
    exact .inr (.inl ⟨busy, notValid busy, fun ht => absurd ht Bool.false_ne_true⟩)

end Sys2Proof.Machine

/-- Settles O51: by the moves of a step. -/
theorem outputValidityLifetime : Obligations.OutputValidityLifetime := by
  intro s t inv hstep
  obtain same | ⟨busy, hs, hdone⟩ | ⟨ht, cause⟩ :=
    (Sys2Proof.Machine.move_of_step hstep).valid_cases inv
  · exact ⟨fun hs ht => by simp [same, hs] at ht, fun hs ht => by simp [same, hs] at ht⟩
  · exact ⟨fun _ ht => ⟨busy, hdone ht⟩, fun hv => by simp [hs] at hv⟩
  · exact ⟨fun _ hv => by simp [ht] at hv, fun _ _ => cause⟩

end

section
/-! A running pass works from its latched configuration (10_state.md R20): the operations commute with
any change of the host's three registers (R17, 20_memory.md R54). -/

namespace Sys2Proof.Machine

/-- The state with these values in the host's registers. -/
def withRegisters (w h : BitVec 16) (d : BitVec 8) (s : State) : State :=
  { s with imgW := w, imgH := h, ksizeDefault := d }

section
variable (w h : BitVec 16) (d : BitVec 8) (s : State)

/-- The guard does not see the registers, so a guarded operation commutes where what it answers in a
pass does. -/
theorem whenBusy_withRegisters {o o' : Answer} (ho : o' = mapNext (withRegisters w h d) o) :
    whenBusy (withRegisters w h d s) o' = mapNext (withRegisters w h d) (whenBusy s o) := by
  by_cases hb : s.mode = .busy
  · rw [whenBusy_of_busy hb, whenBusy_of_busy (s := withRegisters w h d s) hb, ho]
  · rw [whenBusy_of_not_busy hb, whenBusy_of_not_busy (s := withRegisters w h d s) hb]
    rfl

theorem putCell_withRegisters (p : Weight) :
    putCell p (withRegisters w h d s) = withRegisters w h d (putCell p s) := by
  unfold putCell withRegisters
  split_ifs <;> rfl

theorem sendArea_withRegisters :
    sendArea (withRegisters w h d s) = withRegisters w h d (sendArea s) := by
  unfold sendArea withRegisters
  split_ifs <;> rfl

theorem receiveRecord_withRegisters :
    receiveRecord (withRegisters w h d s) = withRegisters w h d (receiveRecord s) := by
  cases hg : s.genIn with
  | nil => simp [receiveRecord, withRegisters, hg]
  | cons answer later =>
    cases ht : takeAnswer s.work.rows s.work.cols answer <;>
      simp [receiveRecord, withRegisters, takeHeader, hg, ht]

theorem advance_withRegisters :
    advance (withRegisters w h d s) = withRegisters w h d (advance s) := by
  obtain ⟨x, y, hn, e⟩ | ⟨hn, e⟩ := advance_cases s
  · rw [e]
    simp [advance, withRegisters, hn]
  · rw [e]
    simp [advance, withRegisters, hn, complete, dropWork]


theorem execCollect_withRegisters :
    execCollect (withRegisters w h d s) = mapNext (withRegisters w h d) (execCollect s) := by
  refine whenBusy_withRegisters w h d s ?_
  simp only [withRegisters]
  cases collectWork s.imem s.work <;> rfl

theorem execKresolve_withRegisters :
    execKresolve (withRegisters w h d s) = mapNext (withRegisters w h d) (execKresolve s) := by
  refine whenBusy_withRegisters w h d s ?_
  rw [sendArea_withRegisters, receiveRecord_withRegisters]
  simp only [withRegisters]
  cases s.work.latKsrc <;> rfl

theorem execKcheck_withRegisters :
    execKcheck (withRegisters w h d s) = mapNext (withRegisters w h d) (execKcheck s) :=
  whenBusy_withRegisters w h d s (by rw [apply_ite (mapNext (withRegisters w h d))]; rfl)

theorem execKsum_withRegisters :
    execKsum (withRegisters w h d s) = mapNext (withRegisters w h d) (execKsum s) :=
  whenBusy_withRegisters w h d s (by rw [apply_ite (mapNext (withRegisters w h d))]; rfl)

theorem execNorm_withRegisters :
    execNorm (withRegisters w h d s) = mapNext (withRegisters w h d) (execNorm s) :=
  whenBusy_withRegisters w h d s (by rw [apply_ite (mapNext (withRegisters w h d))]; rfl)

theorem execWrite_withRegisters :
    execWrite (withRegisters w h d s) = mapNext (withRegisters w h d) (execWrite s) := by
  refine whenBusy_withRegisters w h d s ?_
  simp only [withRegisters]
  cases offset s.work.latW.toNat s.work.latH.toNat s.work.curX.toNat s.work.curY.toNat with
  | none => rfl
  | some off =>
    exact congrArg Host.Outcome.next (advance_withRegisters w h d
      { s with omem := storePixel s.omem off (outPixel s.work.quot) })

/-- A cell form commutes, since putting its weight does. -/
theorem cell_withRegisters (p : Weight) :
    whenBusy (withRegisters w h d s) (.next (putCell p (withRegisters w h d s))) =
      mapNext (withRegisters w h d) (whenBusy s (.next (putCell p s))) :=
  whenBusy_withRegisters w h d s (congrArg _ (putCell_withRegisters w h d s p))

end

end Sys2Proof.Machine

open Sys2Proof Sys2Proof.Machine

/-- Settles O54: operation by operation. -/
theorem runningPassIgnoresTheRegisters : Obligations.RunningPassIgnoresTheRegisters := by
  intro i s w h d hi
  change exec i (withRegisters w h d s) = mapNext (withRegisters w h d) (exec i s)
  cases i with
  | nop | convolve | ack => exact absurd rfl hi
  | pixel0 | scalar | pixel2 | pixel3 | pixel4 => exact cell_withRegisters w h d s _
  | idle => rfl
  | collect => exact execCollect_withRegisters w h d s
  | kresolve => exact execKresolve_withRegisters w h d s
  | kcheck => exact execKcheck_withRegisters w h d s
  | ksum => exact execKsum_withRegisters w h d s
  | mac => exact whenBusy_withRegisters w h d s rfl
  | norm => exact execNorm_withRegisters w h d s
  | write => exact execWrite_withRegisters w h d s

end

section
/-! The memories (20_memory.md): what an operation may write of them, the work refused outside the
image, and the host's accesses to `IMEM` and `KMEM`. -/

namespace Sys2Proof.Machine

variable {s t : State} {later : List Event}

/-! ### What no operation writes -/

/-- From `s` to `t` the input memories, the host's registers, the events and the last value read are
as they were (R41, R43, R54; 10_state.md R17). -/
structure InputsKept (s t : State) : Prop where
  imem : t.imem = s.imem
  kmem : t.kmem = s.kmem
  imgW : t.imgW = s.imgW
  imgH : t.imgH = s.imgH
  ksizeDefault : t.ksizeDefault = s.ksizeDefault
  inbox : t.inbox = s.inbox
  rdata : t.rdata = s.rdata

/-- The same, and no byte of `OMEM` has been given a value: it is as it was, or wholly unspecified
(R52, R55). -/
structure NoValueGiven (s t : State) : Prop extends InputsKept s t where
  output : t.omem = s.omem ∨ t.omem = []

/-- A change of the other fields keeps the inputs. -/
theorem InputsKept.update {mode : Mode} {phase : BitVec 3} {errCode : ErrCode}
    {errX errY : BitVec 16} {errInfo : RegWord} {work : Work} {omem : List Host.Cell}
    {omemValid genOpen : Bool} {genOut genIn : List (List Half)} {fresh : Nat} :
    InputsKept s { s with
      mode := mode, phase := phase, errCode := errCode, errX := errX, errY := errY
      errInfo := errInfo, work := work, omem := omem, omemValid := omemValid, genOpen := genOpen
      genOut := genOut, genIn := genIn, fresh := fresh } :=
  ⟨rfl, rfl, rfl, rfl, rfl, rfl, rfl⟩

theorem NoValueGiven.refl (s : State) : NoValueGiven s s := ⟨.update, .inl rfl⟩

theorem noValueGiven_raiseInPass (e : ErrCode) (info : RegWord) (s : State) :
    NoValueGiven s (raiseInPass e info s) := ⟨.update, .inr rfl⟩

theorem noValueGiven_putCell (p : Weight) (s : State) : NoValueGiven s (putCell p s) := by
  unfold putCell
  split_ifs <;> exact ⟨.update, .inl rfl⟩

/-- A guarded operation does nothing while no pass runs, so only its answer in a pass matters. -/
theorem noValueGiven_whenBusy {o : Answer} (he : whenBusy s o = .next t)
    (ho : o = .next t → NoValueGiven s t) : NoValueGiven s t := by
  obtain ⟨-, h⟩ | ⟨-, rfl⟩ := whenBusy_cases he
  · exact ho h
  · exact .refl _

/-- A cell form puts its weight (R110). -/
theorem noValueGiven_cell {p : Weight} (he : whenBusy s (.next (putCell p s)) = .next t) :
    NoValueGiven s t :=
  noValueGiven_whenBusy he fun h => by
    cases h
    exact noValueGiven_putCell p s

/-- `CONVOLVE` drops the output, then raises or starts the pass (R138, R52). -/
theorem noValueGiven_acceptPass (tag : BitVec 4) (ksrc : KernelSource) (sizeValid : Bool)
    (size : BitVec 8) (s : State) :
    NoValueGiven s (acceptPass tag ksrc sizeValid size (dropOutput (clearRecord s))) := by
  unfold acceptPass
  split_ifs <;> exact ⟨.update, .inr rfl⟩

theorem noValueGiven_receiveRecord (s : State) :
    NoValueGiven s (receiveRecord (sendArea s)) := by
  obtain ⟨out, hsend⟩ := sendArea_eq s
  rw [hsend]
  obtain ⟨e, -⟩ | ⟨_, _, _, _, -, -, e⟩ :=
      receiveRecord_cases { s with genOpen := true, genOut := out } <;>
    rw [e] <;> exact ⟨.update, .inl rfl⟩

/-- No operation but `WRITE` gives a byte of `OMEM` a value, and none of them touches the inputs. -/
theorem exec_noValueGiven {i : Instr} (hi : i ≠ .write) (he : exec i s = .next t) :
    NoValueGiven s t := by
  cases i with
  | nop | idle =>
    cases he
    exact .refl s
  | convolve =>
    rw [exec, execConvolve] at he
    split_ifs at he <;> cases he
    · exact .refl s
    · exact noValueGiven_acceptPass _ _ _ _ s
  | ack =>
    rw [exec, execAck] at he
    split at he <;> cases he <;> exact ⟨.update, .inl rfl⟩
  | pixel0 | scalar | pixel2 | pixel3 | pixel4 => exact noValueGiven_cell he
  | collect =>
    refine noValueGiven_whenBusy he fun h => ?_
    split at h <;> cases h
    exact ⟨.update, .inl rfl⟩
  | kresolve =>
    refine noValueGiven_whenBusy he fun h => ?_
    split at h <;> cases h
    · exact ⟨.update, .inl rfl⟩
    · exact noValueGiven_receiveRecord s
  | kcheck | ksum | norm =>
    refine noValueGiven_whenBusy he fun h => ?_
    split_ifs at h <;> cases h
    · exact noValueGiven_raiseInPass _ _ s
    · exact ⟨.update, .inl rfl⟩
  | mac =>
    refine noValueGiven_whenBusy he fun h => ?_
    cases h
    exact ⟨.update, .inl rfl⟩
  | write => exact absurd rfl hi

/-- `WRITE` keeps the inputs, like every sequencer operation. -/
theorem execWrite_inputsKept (he : execWrite s = .next t) : InputsKept s t := by
  obtain ⟨hb, -⟩ | ⟨-, rfl⟩ := whenBusy_cases he
  · obtain ⟨_, _, rfl⟩ | ⟨_, rfl⟩ | ⟨_, _, _, _, _, _, rfl⟩ :=
      exec_seq_cases (i := .write) he rfl hb <;> exact .update
  · exact .update

/-! ### Outside the image -/

/-- There is no window at a coordinate outside the image (U1). -/
theorem collectWork_outside {imem : List Host.Cell} {w : Work}
    (h : ¬(w.curX.toNat < w.latW.toNat ∧ w.curY.toNat < w.latH.toNat)) :
    collectWork imem w = none := if_neg h

/-- There is no offset for a coordinate outside the image (R86; U1). -/
theorem offset_outside {W H x y : Nat} (h : ¬(x < W ∧ y < H)) : offset W H x y = none := if_neg h

/-! ### The host's accesses to the input memories -/

variable {size addr a : Nat} {after : State}

theorem inputAccess_of_busy (hb : s.mode = .busy) :
    inputAccess size addr s after = .refused .inputAccessWhileBusy := if_pos hb

theorem inputAccess_beyond (hb : s.mode ≠ .busy) (ha : size ≤ addr) :
    inputAccess size addr s after = .fault .noSuchAddress := by
  rw [inputAccess, if_neg hb, if_pos ha]

theorem inputAccess_inside (hb : s.mode ≠ .busy) (ha : addr < size) :
    inputAccess size addr s after = .next after := by
  rw [inputAccess, if_neg hb, if_neg (Nat.not_le_of_lt ha)]

/-- A step with a host access to `IMEM` is that access to the space's largest size. -/
theorem step_imemAccess {v : Byte} {e : Event} (h : s.inbox = e :: later)
    (he : e = .imemWrite a v ∨ e = .imemRead a) :
    ∃ after, step s = inputAccess Config.imageBytes a { s with inbox := later } after := by
  obtain rfl | rfl := he <;> exact ⟨_, step_cons h⟩

/-- The same for `KMEM`. -/
theorem step_kmemAccess {v : Half} {e : Event} (h : s.inbox = e :: later)
    (he : e = .kmemWrite a v ∨ e = .kmemRead a) :
    ∃ after, step s = inputAccess Config.kmemHalves a { s with inbox := later } after := by
  obtain rfl | rfl := he <;> exact ⟨_, step_cons h⟩

/-- A `REG` access that is not aligned is refused (U9; log 15). -/
theorem step_unaligned {off : Nat} {word : RegWord} {e : Event} (h : s.inbox = e :: later)
    (hal : off % 4 ≠ 0) (he : e = .regWrite off word ∨ e = .regRead off) :
    step s = .refused .unalignedRegister := by
  rw [step_cons h]
  obtain rfl | rfl := he
  · simp [eventTurn, regWriteTurn, hal, Plan.answer]
  · simp [eventTurn, hal, Plan.answer]

@[simp] theorem imemByte_set_same (m : List Host.Cell) (a : Nat) (v : Byte) :
    imemByte (Memory.set m a v) a = v := by
  simp [imemByte]

theorem imemByte_set_other (m : List Host.Cell) {a b : Nat} (v : Byte) (h : b ≠ a) :
    imemByte (Memory.set m a v) b = imemByte m b := by
  rw [imemByte, memory_get_set_other m v h, imemByte]

@[simp] theorem kmemHalf_set_same (m : List (Nat × Half)) (a : Nat) (v : Half) :
    kmemHalf (Memory.set m a v) a = v := by
  simp [kmemHalf]

theorem kmemHalf_set_other (m : List (Nat × Half)) {a b : Nat} (v : Half) (h : b ≠ a) :
    kmemHalf (Memory.set m a v) b = kmemHalf m b := by
  rw [kmemHalf, memory_get_set_other m v h, kmemHalf]

end Sys2Proof.Machine

open Sys2Proof Sys2Proof.Machine

/-- Settles O53: `WRITE` by what a sequencer operation can come to, every other operation by
`exec_noValueGiven`. -/
theorem operationsLeaveTheInputsAlone : Obligations.OperationsLeaveTheInputsAlone := by
  intro i s t he
  have inputs : InputsKept s t := by
    by_cases hi : i = .write
    · subst hi
      exact execWrite_inputsKept he
    · exact (exec_noValueGiven hi he).toInputsKept
  exact ⟨inputs.imem, inputs.kmem, inputs.imgW, inputs.imgH, inputs.ksizeDefault, inputs.inbox,
    inputs.rdata, fun hi => (exec_noValueGiven hi he).output⟩

/-- Settles O13: neither the window nor the offset exists there. -/
theorem outsideTheImageFaults : Obligations.OutsideTheImageFaults := by
  intro s hb hout
  constructor
  · rw [exec, execCollect, whenBusy_of_busy hb, collectWork_outside hout]
  · rw [exec, execWrite, whenBusy_of_busy hb, offset_outside hout]

/-- Settles O48: an access inside the space goes through, and a read after a write obeys the laws of
a memory. -/
theorem hostWritesInputMemory : Obligations.HostWritesInputMemory := by
  intro s a v h later hb
  refine ⟨fun hin ha => ?_, fun hin ha => ?_, fun hin ha => ?_, fun hin ha => ?_⟩ <;>
    refine ⟨_, (step_cons hin).trans (inputAccess_inside hb ha), ?_⟩
  · exact ⟨imemByte_set_same _ _ _, fun b hne => imemByte_set_other _ _ hne, rfl⟩
  · exact ⟨kmemHalf_set_same _ _ _, fun b hne => kmemHalf_set_other _ _ hne, rfl⟩
  · exact ⟨BitVec.toNat_setWidth_of_le (by decide), rfl⟩
  · exact ⟨BitVec.toNat_setWidth_of_le (by decide), rfl⟩

/-- Settles O49: every access to an input memory passes the one check of `inputAccess`. -/
theorem hostAccessStops : Obligations.HostAccessStops := by
  intro s a v h e later hin
  refine ⟨fun hb he => ?_, fun hb ha he => ?_, fun hb ha he => ?_, fun off word hal he => ?_⟩
  · obtain he | he := or_assoc.mpr he
    · obtain ⟨after, hstep⟩ := step_imemAccess hin he
      exact hstep.trans (inputAccess_of_busy hb)
    · obtain ⟨after, hstep⟩ := step_kmemAccess hin he
      exact hstep.trans (inputAccess_of_busy hb)
  · obtain ⟨after, hstep⟩ := step_imemAccess hin he
    exact hstep.trans (inputAccess_beyond hb ha)
  · obtain ⟨after, hstep⟩ := step_kmemAccess hin he
    exact hstep.trans (inputAccess_beyond hb ha)
  · exact step_unaligned hin hal he

end

section
/-! The encodings (30_encoding.md): command words field by field, the cell forms and the phase codes
against their encodings, a reserved cell, and the layout of the Area record. -/

namespace Sys2Proof.Machine

/-! ### The rows a command word hits (R62) -/

/-- The mask of the `CONVOLVE` row keeps `OP` and the reserved fields. -/
theorem and_convolveMask (w : RegWord) :
    w &&& 0xFF00FC0F = w.extractLsb' 24 8 ++ 0#8 ++ w.extractLsb' 10 6 ++ 0#6 ++
      w.extractLsb' 0 4 := by
  apply BitVec.eq_of_getLsbD_eq
  intro i hi
  simp only [BitVec.getLsbD_and, BitVec.getLsbD_append, BitVec.getLsbD_extractLsb']
  interval_cases i <;> simp

/-- A word is a `CONVOLVE` when `OP` is 1 and bits 15:10 and 31:24 are 0. -/
theorem and_convolveMask_eq_one (w : RegWord) :
    w &&& 0xFF00FC0F = 1 ↔
      w.extractLsb' 0 4 = 1 ∧ w.extractLsb' 10 6 = 0 ∧ w.extractLsb' 24 8 = 0 := by
  rw [← BitVec.toNat_inj, and_convolveMask]
  simp only [append_toNat, BitVec.toNat_ofNat]
  bv_omega

theorem rowHits_nop (w : RegWord) : rowHits nopRow w = true ↔ w = 0 := by
  have whole : w &&& 0xFFFFFFFF = w := BitVec.and_allOnes
  rw [rowHits, beq_iff_eq, nopRow, whole]

theorem rowHits_ack (w : RegWord) : rowHits ackRow w = true ↔ w = 2 := by
  have whole : w &&& 0xFFFFFFFF = w := BitVec.and_allOnes
  rw [rowHits, beq_iff_eq, ackRow, whole]

theorem rowHits_convolve (w : RegWord) : rowHits convolveRow w = true ↔ w &&& 0xFF00FC0F = 1 :=
  beq_iff_eq

/-- What a command word decodes to, row by row. -/
theorem decodeCmd_cases (w : RegWord) :
    (w = 0 ∧ decodeCmd w = .ok .nop) ∨
    (w &&& 0xFF00FC0F = 1 ∧ decodeCmd w = .ok (convolveFields w)) ∨
    (w = 2 ∧ decodeCmd w = .ok .ack) ∨
    (w ≠ 0 ∧ w &&& 0xFF00FC0F ≠ 1 ∧ w ≠ 2 ∧ decodeCmd w = .reject .illegalCommand) := by
  simp only [decodeCmd, rowHits_nop, rowHits_convolve, rowHits_ack]
  split_ifs with hnop hconvolve hack
  · exact .inl ⟨hnop, rfl⟩
  · exact .inr (.inl ⟨hconvolve, rfl⟩)
  · exact .inr (.inr (.inl ⟨hack, rfl⟩))
  · exact .inr (.inr (.inr ⟨hnop, hconvolve, hack, rfl⟩))

theorem decodeCmd_of_masked {w : RegWord} (h : w &&& 0xFF00FC0F = 1) :
    decodeCmd w = .ok (convolveFields w) := by
  obtain ⟨rfl, -⟩ | ⟨-, e⟩ | ⟨rfl, -⟩ | ⟨-, hne, -⟩ := decodeCmd_cases w
  · exact absurd h (by decide)
  · exact e
  · exact absurd h (by decide)
  · exact absurd h hne

/-- The rejected words are those that hit no row. -/
theorem decodeCmd_reject_iff (w : RegWord) :
    decodeCmd w = .reject .illegalCommand ↔ w ≠ 0 ∧ w &&& 0xFF00FC0F ≠ 1 ∧ w ≠ 2 := by
  obtain ⟨hw, e⟩ | ⟨hw, e⟩ | ⟨hw, e⟩ | ⟨hnop, hconvolve, hack, e⟩ := decodeCmd_cases w <;> rw [e]
  · exact iff_of_false nofun fun h => h.1 hw
  · exact iff_of_false nofun fun h => h.2.1 hw
  · exact iff_of_false nofun fun h => h.2.2 hw
  · exact iff_of_true rfl ⟨hnop, hconvolve, hack⟩

/-! ### The fields of a `CONVOLVE` word (R61, R63, R76) -/

theorem kernelSourceOfBit_kernelSourceBit (k : KernelSource) :
    kernelSourceOfBit (kernelSourceBit k) = k := by
  cases k <;> rfl

theorem kernelSourceBit_kernelSourceOfBit (b : Bool) :
    kernelSourceBit (kernelSourceOfBit b) = b := by
  cases b <;> rfl

/-- Each field is read where `convolveWord` put it. -/
theorem convolveFields_convolveWord (t : BitVec 4) (k : KernelSource) (v : Bool) (z : BitVec 8) :
    convolveFields (convolveWord t k v z) = .convolve t k v z := by
  have hsource : (convolveWord t k v z).extractLsb' 4 4 = t := by
    simp only [convolveWord, BitVec.extractLsb'_append_eq_of_le, Nat.le_refl, Nat.sub_self,
      BitVec.extractLsb'_append_eq_right]
  have hsize : (convolveWord t k v z).extractLsb' 16 8 = z := by
    simp only [convolveWord, BitVec.extractLsb'_append_eq_of_le, Nat.reduceLeDiff, Nat.reduceSub,
      BitVec.extractLsb'_append_eq_right]
  have hkernel : (convolveWord t k v z).getLsbD 8 = kernelSourceBit k := by
    simp only [convolveWord, BitVec.getLsbD_append]
    simp
  have hvalid : (convolveWord t k v z).getLsbD 9 = v := by
    simp only [convolveWord, BitVec.getLsbD_append]
    simp
  rw [convolveFields, hsource, hsize, hkernel, hvalid, kernelSourceOfBit_kernelSourceBit]

theorem ofBool_getLsbD {n : Nat} (x : BitVec n) (i : Nat) :
    BitVec.ofBool (x.getLsbD i) = x.extractLsb' i 1 := by
  rw [BitVec.getLsbD_eq_extractLsb']
  generalize x.extractLsb' i 1 = b
  revert b
  decide

/-- A word is its seven fields, from bit 31 down. -/
theorem word_eq_fields (w : RegWord) :
    w.extractLsb' 24 8 ++ w.extractLsb' 16 8 ++ w.extractLsb' 10 6 ++ BitVec.ofBool (w.getLsbD 9) ++
      BitVec.ofBool (w.getLsbD 8) ++ w.extractLsb' 4 4 ++ w.extractLsb' 0 4 = w := by
  apply BitVec.eq_of_toNat_eq
  simp only [ofBool_getLsbD, append_toNat, BitVec.extractLsb'_toNat, Nat.shiftRight_eq_div_pow]
  omega

/-- A word of the `CONVOLVE` row has no bit outside its fields. -/
theorem encode_convolveFields {w : RegWord} (h : w &&& 0xFF00FC0F = 1) :
    encode (convolveFields w) = .cmd w := by
  obtain ⟨hop, hmiddle, hhigh⟩ := (and_convolveMask_eq_one w).mp h
  have hw := word_eq_fields w
  rw [hop, hmiddle, hhigh] at hw
  rw [convolveFields, encode, convolveWord, kernelSourceBit_kernelSourceOfBit]
  exact congrArg Code.cmd hw

/-! ### The three formats against the encoder -/

theorem encode_of_decodeCmd {w : RegWord} {i : Instr} (h : decodeCmd w = .ok i) :
    encode i = .cmd w := by
  obtain ⟨rfl, e⟩ | ⟨hmask, e⟩ | ⟨rfl, e⟩ | ⟨-, -, -, e⟩ := decodeCmd_cases w <;>
    cases e.symm.trans h
  · rfl
  · exact encode_convolveFields hmask
  · rfl

theorem encode_decodeSeq (c : BitVec 3) : encode (decodeSeq c) = .seq c := by
  revert c
  decide

/-- A cell that decodes has the tag of its form, and `MKPIXEL` builds its Pixel from the values the
encoder keeps. -/
theorem encode_of_decodeCell {tag v0 v1 v2 v3 : Half} {i : Instr}
    (h : decodeCell tag v0 v1 v2 v3 = .ok i) :
    ∃ u0 u1 u2 u3, encode i = .kcell tag u0 u1 u2 u3 ∧
      mkPixel tag u0 u1 u2 u3 = mkPixel tag v0 v1 v2 v3 ∧ mkPixel tag v0 v1 v2 v3 ≠ none := by
  unfold decodeCell at h
  split_ifs at h <;> cases h <;> (subst tag; exact ⟨_, _, _, _, rfl, rfl, nofun⟩)

/-! ### A reserved cell (R71, R110) -/

/-- `MKPIXEL` constructs nothing exactly at the reserved tags. -/
theorem mkPixel_eq_none_iff (tag v0 v1 v2 v3 : Half) :
    mkPixel tag v0 v1 v2 v3 = none ↔ 5 ≤ tag.toNat := by
  unfold mkPixel
  split
  case h_6 => exact iff_of_true rfl (by grind)
  all_goals exact iff_of_false nofun (by omega)

theorem decodeCell_reserved {tag : Half} (h : 5 ≤ tag.toNat) (v0 v1 v2 v3 : Half) :
    decodeCell tag v0 v1 v2 v3 = .reject .reservedTag := by
  obtain ⟨-, e⟩ | ⟨p, i, hp, -⟩ := decodeCell_cases tag v0 v1 v2 v3
  · exact e
  · cases hp.symm.trans ((mkPixel_eq_none_iff tag v0 v1 v2 v3).mpr h)

theorem engineTurn_of_rejected_cell {s : State} {c : Code} {why : Reject} (hb : s.mode = .busy)
    (ha : atCell s = true) (hc : cellCode (recordHalf s) s.work.ker.length = some c)
    (hd : decode c = .reject why) : engineTurn s = .settle (.next (reservedCell s)) := by
  simp [engineTurn, hb, ha, cellTurn, hc, hd]

/-- After an error of a pass no byte of the output has a specified value (R162). -/
theorem outputByte_raiseInPass (e : ErrCode) (info : RegWord) (s : State) (a : Nat) :
    outputByte (raiseInPass e info s) a = none := if_neg Bool.false_ne_true

/-- `ERR_INFO` of a reserved cell, the index of a cell fitting its field (R159). -/
theorem reservedCell_errInfo {s : State} (h : s.work.ker.length < 65025) :
    (reservedCell s).errInfo.toNat = s.work.ker.length * 65536 + 3 := by
  have hlt : s.work.ker.length < 2 ^ 16 := by omega
  rw [reservedCell, raiseInPass_errInfo, configInfo_toNat, toNat_ofNat_of_lt hlt]
  rfl

/-! ### The Area record (R72) -/

/-- The window of a coordinate of the image has a sample for each cell of the Area (R97). -/
theorem AreaOk.win_length {imem : List Host.Cell} {w : Work} (h : AreaOk imem w)
    (hx : w.curX.toNat < w.latW.toNat) (hy : w.curY.toNat < w.latH.toNat) :
    w.win.length = w.rows.toNat * w.cols.toNat := by
  obtain ⟨px, hpx, hlen, -⟩ := sampleWindow_some imem (half := w.latHalf.toNat) hx hy
  obtain rfl : w.win = px := Option.some.inj (h.win.symm.trans hpx)
  rw [hlen, h.rows, h.cols]
  rfl

theorem pixelBeats_length (px : Sample) : (pixelBeats px).length = 4 := rfl

theorem flatMap_pixelBeats_length (win : List Sample) :
    (win.flatMap pixelBeats).length = 4 * win.length := by
  simp [List.length_flatMap, pixelBeats_length, Nat.mul_comm]

/-- Four beats a pixel: beat `4*p + k` of the pixels is beat `k` of pixel `p`. -/
theorem flatMap_pixelBeats_get {win : List Sample} {px : Sample} {k : Nat} (hk : k < 4) :
    ∀ {p : Nat}, win[p]? = some px →
      (win.flatMap pixelBeats)[4 * p + k]? = (pixelBeats px)[k]? := by
  induction win with
  | nil => simp
  | cons q win ih =>
    rintro (_ | p) h
    · obtain rfl : q = px := by simpa using h
      rw [List.flatMap_cons, Nat.mul_zero, Nat.zero_add]
      exact List.getElem?_append_left hk
    · rw [List.flatMap_cons, List.getElem?_append_right (by rw [pixelBeats_length]; omega),
        pixelBeats_length, ← ih (by simpa using h)]
      congr 1
      omega

theorem areaRecord_length (w : Work) : (areaRecord w).length = 6 + 4 * w.win.length := by
  rw [areaRecord, List.length_append, flatMap_pixelBeats_length]
  rfl

/-- Behind the six beats of box and centre, beat `k` of pixel `p`. -/
theorem areaRecord_get {w : Work} {p k : Nat} {px : Sample} (h : w.win[p]? = some px) (hk : k < 4) :
    (areaRecord w)[6 + 4 * p + k]? = (pixelBeats px)[k]? := by
  rw [areaRecord, Nat.add_assoc, Nat.add_comm 6]
  exact flatMap_pixelBeats_get hk h

/-- The record is well-formed: the centre is in the box, and there is a pixel for each cell of it. -/
theorem areaRecord_wellFormed {imem : List Host.Cell} {w : Work} (h : AreaOk imem w)
    (hx : w.curX.toNat < w.latW.toNat) (hy : w.curY.toNat < w.latH.toNat) :
    areaRecordWellFormed (areaRecord w) = true := by
  obtain ⟨hleft, hright, -, htop, hbottom, -⟩ := areaBox_inside (half := w.latHalf.toNat) hx hy
  have hpixels : (w.win.flatMap pixelBeats).length =
      4 * (w.bottom.toNat - w.top.toNat + 1) * (w.right.toNat - w.left.toNat + 1) := by
    rw [flatMap_pixelBeats_length, h.win_length hx hy, h.rows, h.cols, h.bottom, h.top, h.right,
      h.left, Nat.mul_assoc]
    rfl
  simp only [areaRecord, List.cons_append, List.nil_append, areaRecordWellFormed, Bool.and_eq_true,
    decide_eq_true_eq]
  refine ⟨⟨⟨⟨?_, ?_⟩, ?_⟩, ?_⟩, hpixels⟩
  · exact h.left.trans_le hleft
  · exact hright.trans_eq h.right.symm
  · exact h.top.trans_le htop
  · exact hbottom.trans_eq h.bottom.symm

end Sys2Proof.Machine

open Sys2Proof Sys2Proof.Machine

/-- Settles O1: a `CONVOLVE` word shows its row and its fields; every other code is a fixed tag or
word. -/
theorem decodeInvertsEncode : Obligations.DecodeInvertsEncode := by
  intro i _
  cases i with
  | convolve t k v z =>
    have hmask := Laws.EncodingFitsOneRow.convolveWord_masked t k v z
    rw [encode, decode, decodeCmd_of_masked hmask, convolveFields_convolveWord]
  | nop | ack => rfl
  | pixel0 | scalar | pixel2 | pixel3 | pixel4 => rfl
  | idle | collect | kresolve | kcheck | ksum | mac | norm | write => rfl

/-- Settles O2: format by format. -/
theorem encodeInvertsDecode : Obligations.EncodeInvertsDecode := by
  refine ⟨fun w i h => encode_of_decodeCmd h, fun c i h => ?_,
    fun tag v0 v1 v2 v3 i h => encode_of_decodeCell h⟩
  cases h
  exact encode_decodeSeq c

/-- Settles O3: a word hits no row exactly when a field rules each of them out. -/
theorem illegalWordsAreTheReservedOnes : Obligations.IllegalWordsAreTheReservedOnes := by
  intro w
  rw [decode, decodeCmd_reject_iff, Ne, Ne, Ne, and_convolveMask_eq_one]
  simp only [← BitVec.toNat_inj, BitVec.extractLsb'_toNat, Nat.shiftRight_eq_div_pow, ne_eq]
  bv_omega

/-- Settles O7: the tag is rejected, and the step raises at the cell. -/
theorem reservedCellRaises : Obligations.ReservedCellRaises := by
  intro s tag v0 v1 v2 v3 hb hp hdec hin hc htag hlt
  have hturn := engineTurn_of_rejected_cell hb (atCell_iff.mpr ⟨hp, hdec⟩) hc
    (decodeCell_reserved htag v0 v1 v2 v3)
  refine ⟨reservedCell s, ?_, rfl, rfl, rfl, rfl, rfl, reservedCell_errInfo hlt,
    outputByte_raiseInPass _ _ s, rfl⟩
  rw [step_nil hin, hturn]
  rfl

/-- Settles O17: each clause is a fact about the six beats and the beats of the window. -/
theorem areaRecordLayout : Obligations.AreaRecordLayout := by
  intro imem w h hx hy
  refine ⟨?_, rfl, fun p px hpx => ?_, areaRecord_wellFormed h hx hy⟩
  · rw [areaRecord_length, h.win_length hx hy]
  · exact ⟨areaRecord_get hpx (k := 0) (by decide), areaRecord_get hpx (by decide),
      areaRecord_get hpx (by decide), areaRecord_get hpx (by decide)⟩

/-- Settles O4: the decoder run on each word. -/
theorem sampleWordsDecode : Obligations.SampleWordsDecode := by
  unfold Obligations.SampleWordsDecode
  decide

end

section
/-! The pixel primitives (40_pixel_primitives.md): `MKPIXEL` by its tag, the cell forms in a running
pass, and `OFFSET`. -/

namespace Sys2Proof.Machine

/-! ### Kernel cells (R71, R81 to R85) -/

/-- The decoder rejects a cell exactly at the reserved tags, where `MKPIXEL` constructs nothing. -/
theorem decodeCell_reject_iff (tag v0 v1 v2 v3 : Half) :
    decodeCell tag v0 v1 v2 v3 = .reject .reservedTag ↔ 5 ≤ tag.toNat := by
  refine ⟨fun h => ?_, fun h => decodeCell_reserved h v0 v1 v2 v3⟩
  obtain ⟨hp, -⟩ | ⟨p, i, -, hi, -⟩ := decodeCell_cases tag v0 v1 v2 v3
  · exact (mkPixel_eq_none_iff tag v0 v1 v2 v3).mp hp
  · cases hi.symm.trans h

/-! ### The offset of a coordinate (R86) -/

variable {W H x y : Nat}

theorem offset_inside (hx : x < W) (hy : y < H) : offset W H x y = some ((y * W + x) * 4) :=
  if_pos ⟨hx, hy⟩

/-- Of the `W*H` pixels in raster order, fewer than `W*H` stand before a coordinate of the image. -/
theorem rasterIndex_lt (hx : x < W) (hy : y < H) : y * W + x < W * H :=
  calc y * W + x < (y + 1) * W := by rw [Nat.succ_mul]; omega
    _ ≤ H * W := Nat.mul_le_mul_right W hy
    _ = W * H := Nat.mul_comm H W

/-- The bound of R5 on both sides of the image makes every offset fit 34 bits. -/
theorem offset_fits (hW : W ≤ 65535) (hH : H ≤ 65535) (hx : x < W) (hy : y < H) :
    (y * W + x) * 4 < 2 ^ 34 := by
  have hindex := rasterIndex_lt hx hy
  have hpixels : W * H ≤ 65535 * 65535 := Nat.mul_le_mul hW hH
  omega

/-- One column to the right is one pixel on. -/
theorem offset_right (hx : x + 1 < W) (hy : y < H) :
    offset W H (x + 1) y = some ((y * W + x) * 4 + 4) :=
  (offset_inside hx hy).trans (congrArg some (Nat.succ_mul (y * W + x) 4))

/-- One row down is `W` pixels on. -/
theorem offset_below (hx : x < W) (hy : y + 1 < H) :
    offset W H x (y + 1) = some ((y * W + x) * 4 + 4 * W) := by
  rw [offset_inside hx hy, Nat.succ_mul]
  congr 1
  omega

/-- The last pixel ends the `W*H*4` bytes of the image. -/
theorem offset_last (hW : 0 < W) (hH : 0 < H) :
    offset W H (W - 1) (H - 1) = some (W * H * 4 - 4) := by
  rw [offset_inside (Nat.sub_one_lt_of_lt hW) (Nat.sub_one_lt_of_lt hH), Nat.sub_one_mul,
    Nat.mul_comm H W]
  have hrow : W ≤ W * H := Nat.le_mul_of_pos_right W hH
  congr 1
  omega

end Sys2Proof.Machine

open Sys2Proof Sys2Proof.Machine

/-- Settles O6: each form is a row of `MKPIXEL` and of the decoder; the reserved tags are the rest. -/
theorem mkPixelByTag : Obligations.MkPixelByTag := by
  intro n a r g b x y z u v w q tag
  exact ⟨rfl, rfl, rfl, rfl, rfl, rfl, rfl, rfl, rfl,
    mkPixel_eq_none_iff tag x y z q, decodeCell_reject_iff tag x y z q⟩

/-- Settles O8: the raster index of the coordinate, four bytes a pixel. -/
theorem offsetIsExact : Obligations.OffsetIsExact := by
  intro W H x y hW hH
  refine ⟨fun hx hy => ⟨(y * W + x) * 4, offset_inside hx hy, rfl, offset_fits hW hH hx hy,
    Nat.dvd_mul_left 4 _, fun hright => offset_right hright hy, offset_below hx, ?_, ?_⟩,
    offset_outside, rfl⟩
  · rw [offset_inside (Nat.zero_lt_of_lt hx) (Nat.zero_lt_of_lt hy), Nat.zero_mul]
  · exact offset_last (Nat.zero_lt_of_lt hx) (Nat.zero_lt_of_lt hy)

/-- Settles O5: in a running pass each form is `putCell` of its own Pixel. -/
theorem cellFormsAppendTheirPixel : Obligations.CellFormsAppendTheirPixel := by
  rintro s n a r g b i p hb
    (⟨rfl, rfl⟩ | ⟨rfl, rfl⟩ | ⟨rfl, rfl⟩ | ⟨rfl, rfl⟩ | ⟨rfl, rfl⟩)
  case inl => exact whenBusy_of_busy hb (.next (putCell pixel0Weight s))
  case inr.inl => exact whenBusy_of_busy hb (.next (putCell (scalarWeight n) s))
  case inr.inr.inl => exact whenBusy_of_busy hb (.next (putCell (pixel2Weight n a) s))
  case inr.inr.inr.inl => exact whenBusy_of_busy hb (.next (putCell (pixel3Weight r g b) s))
  case inr.inr.inr.inr => exact whenBusy_of_busy hb (.next (putCell (pixel4Weight r g b a) s))

end

section
/-! `COLLECT` (41_neighborhood_collector.md): the clamped box as integers, the window over it, and
what the operation answers in a running pass at a coordinate of the image. -/

namespace Sys2Proof.Machine

/-! ### The clamped box (R96, R98, R99) -/

section
variable {W H half cx cy : Nat}

/-- Each edge is the clamp of R96 on integers, by itself. -/
theorem areaBox_edges (hx : cx < W) (hy : cy < H) :
    ((areaBox W H half cx cy).left : Int) = max 0 ((cx : Int) - half) ∧
    ((areaBox W H half cx cy).right : Int) = min ((W : Int) - 1) (cx + half) ∧
    ((areaBox W H half cx cy).top : Int) = max 0 ((cy : Int) - half) ∧
    ((areaBox W H half cx cy).bottom : Int) = min ((H : Int) - 1) (cy + half) := by
  simp only [areaBox]
  omega

/-- The counts of a box are those of R96 on integers: around a centre of the image no edge passes
another. -/
theorem areaBox_counts (hx : cx < W) (hy : cy < H) :
    (boxCols (areaBox W H half cx cy) : Int) =
      ((areaBox W H half cx cy).right : Int) - (areaBox W H half cx cy).left + 1 ∧
    (boxRows (areaBox W H half cx cy) : Int) =
      ((areaBox W H half cx cy).bottom : Int) - (areaBox W H half cx cy).top + 1 := by
  obtain ⟨hleft, hright, -, htop, hbottom, -⟩ := areaBox_inside (half := half) hx hy
  simp only [boxCols, boxRows]
  omega

/-- A box has a row, not more than `2*half + 1`, and not more than the image (R98). -/
theorem boxRows_areaBox_bounds (hy : cy < H) :
    1 ≤ boxRows (areaBox W H half cx cy) ∧ boxRows (areaBox W H half cx cy) ≤ 2 * half + 1 ∧
    boxRows (areaBox W H half cx cy) ≤ H := by
  simp only [boxRows, areaBox]
  omega

/-- The same for its columns (R98). -/
theorem boxCols_areaBox_bounds (hx : cx < W) :
    1 ≤ boxCols (areaBox W H half cx cy) ∧ boxCols (areaBox W H half cx cy) ≤ 2 * half + 1 ∧
    boxCols (areaBox W H half cx cy) ≤ W := by
  simp only [boxCols, areaBox]
  omega

/-- Where no clamp applies to a side, its count is `2*half + 1` (R98). -/
theorem boxRows_areaBox_interior (htop : half ≤ cy) (hbottom : cy + half ≤ H - 1) :
    boxRows (areaBox W H half cx cy) = 2 * half + 1 := by
  simp only [boxRows, areaBox]
  omega

theorem boxCols_areaBox_interior (hleft : half ≤ cx) (hright : cx + half ≤ W - 1) :
    boxCols (areaBox W H half cx cy) = 2 * half + 1 := by
  simp only [boxCols, areaBox]
  omega

end

/-! ### The window (R87, R97) -/

variable {imem : List Host.Cell} {w : Work} {s : State}

/-- A coordinate with an offset has the four bytes from it as its sample. -/
theorem getPixel_of_offset {W H x y o : Nat} (h : offset W H x y = some o) :
    getPixel imem W H x y = some ⟨imemByte imem o, imemByte imem (o + 1), imemByte imem (o + 2),
      imemByte imem (o + 3)⟩ := by
  rw [getPixel, h]

/-- Entry `(i, j)` of the window is the sample at `(left + j, top + i)`. -/
theorem AreaOk.win_get (h : AreaOk imem w) (hx : w.curX.toNat < w.latW.toNat)
    (hy : w.curY.toNat < w.latH.toNat) {i j : Nat} (hi : i < w.rows.toNat)
    (hj : j < w.cols.toNat) :
    w.win[i * w.cols.toNat + j]? =
      getPixel imem w.latW.toNat w.latH.toNat (w.left.toNat + j) (w.top.toNat + i) := by
  obtain ⟨px, hpx, -, hget⟩ := sampleWindow_some imem (half := w.latHalf.toNat) hx hy
  obtain rfl : w.win = px := Option.some.inj (h.win.symm.trans hpx)
  rw [h.rows] at hi
  rw [h.cols] at hj ⊢
  rw [h.left, h.top]
  exact hget i j hi hj

/-- The coordinate of entry `(i, j)` of the window lies inside the image (R99). -/
theorem AreaOk.entry_inside (h : AreaOk imem w) (hx : w.curX.toNat < w.latW.toNat)
    (hy : w.curY.toNat < w.latH.toNat) {i j : Nat} (hi : i < w.rows.toNat)
    (hj : j < w.cols.toNat) :
    w.left.toNat + j < w.latW.toNat ∧ w.top.toNat + i < w.latH.toNat := by
  obtain ⟨hleft, hright, hrightW, htop, hbottom, hbottomH⟩ :=
    areaBox_inside (half := w.latHalf.toNat) hx hy
  rw [h.rows, boxRows, currentBox] at hi
  rw [h.cols, boxCols, currentBox] at hj
  rw [h.left, h.top, currentBox]
  omega

/-! ### The operation -/

/-- At a coordinate of the image `COLLECT` writes the Area registers and the window, and they are
those of the coordinate. -/
theorem collectWork_inside (imem : List Host.Cell) (scan : ScanOk w) :
    ∃ left right top bottom rows cols win,
      collectWork imem w = some { w with
        left := left, right := right, top := top, bottom := bottom, rows := rows, cols := cols
        win := win } ∧
      AreaOk imem { w with
        left := left, right := right, top := top, bottom := bottom, rows := rows, cols := cols
        win := win } := by
  obtain ⟨px, hpx, -⟩ :=
    sampleWindow_some imem (half := w.latHalf.toNat) scan.inRow scan.inColumn
  obtain ⟨hleft, htop, hright, hbottom, hrows, hcols⟩ := currentBox_bounds scan
  refine ⟨_, _, _, _, _, _, px, ?_, {
    left := toNat_ofNat_of_lt hleft
    top := toNat_ofNat_of_lt htop
    right := toNat_ofNat_of_lt hright
    bottom := toNat_ofNat_of_lt hbottom
    rows := toNat_ofNat_of_lt hrows
    cols := toNat_ofNat_of_lt hcols
    win := hpx }⟩
  rw [collectWork, if_pos ⟨scan.inRow, scan.inColumn⟩]
  dsimp only
  rw [hpx]
  rfl

/-- In a running pass `COLLECT` completes: the phase moves on, the Area registers and the window are
those of the coordinate, and nothing else changes. -/
theorem exec_collect_inside (hb : s.mode = .busy) (scan : ScanOk s.work) :
    ∃ left right top bottom rows cols win,
      exec .collect s = .next { s with
        phase := 0b010
        work := { s.work with
          left := left, right := right, top := top, bottom := bottom, rows := rows, cols := cols
          win := win } } ∧
      AreaOk s.imem { s.work with
        left := left, right := right, top := top, bottom := bottom, rows := rows, cols := cols
        win := win } := by
  obtain ⟨left, right, top, bottom, rows, cols, win, hcollect, area⟩ :=
    collectWork_inside s.imem scan
  refine ⟨left, right, top, bottom, rows, cols, win, ?_, area⟩
  rw [exec, execCollect, whenBusy_of_busy hb, hcollect]

end Sys2Proof.Machine

open Sys2Proof Sys2Proof.Machine

/-- Settles O9: the Area registers hold the box of the coordinate, whose edges and counts are those
of R96 on integers. -/
theorem collectClampsTheBox : Obligations.CollectClampsTheBox := by
  intro s hb scan
  obtain ⟨left, right, top, bottom, rows, cols, win, he, area⟩ := exec_collect_inside hb scan
  obtain ⟨hleft, hright, htop, hbottom⟩ :=
    areaBox_edges (half := s.work.latHalf.toNat) scan.inRow scan.inColumn
  obtain ⟨hcols, hrows⟩ :=
    areaBox_counts (half := s.work.latHalf.toNat) scan.inRow scan.inColumn
  refine ⟨_, he, ?_, ?_, ?_, ?_, ?_, ?_, rfl⟩
  · rw [area.left]
    exact hleft
  · rw [area.right]
    exact hright
  · rw [area.top]
    exact htop
  · rw [area.bottom]
    exact hbottom
  · rw [area.cols, area.right, area.left]
    exact hcols
  · rw [area.rows, area.bottom, area.top]
    exact hrows

/-- Settles O10: an entry's coordinate is inside the image, so it has an offset and a sample. -/
theorem collectSamplesTheWindow : Obligations.CollectSamplesTheWindow := by
  intro s hb scan
  obtain ⟨left, right, top, bottom, rows, cols, win, he, area⟩ := exec_collect_inside hb scan
  refine ⟨_, he, area.win_length scan.inRow scan.inColumn, fun i j hi hj => ?_⟩
  obtain ⟨hx, hy⟩ := area.entry_inside scan.inRow scan.inColumn hi hj
  have hoffset := offset_inside hx hy
  exact ⟨_, hoffset, (area.win_get scan.inRow scan.inColumn hi hj).trans
    (getPixel_of_offset hoffset)⟩

/-- Settles O11: the counts are those of the coordinate's box. -/
theorem collectShapeIsBounded : Obligations.CollectShapeIsBounded := by
  intro s t hb scan ht
  obtain ⟨left, right, top, bottom, rows, cols, win, he, area⟩ := exec_collect_inside hb scan
  obtain rfl := Host.Outcome.next.inj (he.symm.trans ht)
  rw [area.rows, area.cols]
  obtain ⟨hrows, hrowsHalf, hrowsImage⟩ := boxRows_areaBox_bounds scan.inColumn
  obtain ⟨hcols, hcolsHalf, hcolsImage⟩ := boxCols_areaBox_bounds scan.inRow
  exact ⟨hrows, hrowsHalf, hrowsImage, hcols, hcolsHalf, hcolsImage,
    fun hleft hright htop hbottom =>
      ⟨boxRows_areaBox_interior htop hbottom, boxCols_areaBox_interior hleft hright⟩⟩

/-- Settles O12: a coordinate of the box is its corner with an offset below its counts. -/
theorem windowStaysInsideTheImage : Obligations.WindowStaysInsideTheImage := by
  intro W H half cx cy hx hy c hc
  obtain ⟨i, j, hi, hj, rfl⟩ := mem_boxCoords.mp hc
  obtain ⟨hleft, hright, hrightW, htop, hbottom, hbottomH⟩ :=
    areaBox_inside (half := half) hx hy
  rw [boxRows] at hi
  rw [boxCols] at hj
  omega

end

section
/-! No fault of the engine's own (R99, R109; U1): from a state that meets the invariant its turn
always answers a next state, so the only fault of a step is a host access beyond its space. -/

namespace Sys2Proof.Machine

variable {s : State} {kmem : List (Nat × Half)} {w : Work}

/-! ### The record is whole at every cell (R109) -/

/-- A record of the Area's shape has every halfword up to its last cell's. -/
theorem HeaderOk.record_whole (h : HeaderOk kmem w) (hrows : w.krows = w.rows)
    (hcols : w.kcols = w.cols) {i : Nat} (hi : i ≤ 5 * (w.rows.toNat * w.cols.toNat)) :
    ∃ v, recordOf kmem w i = some v := by
  cases hk : w.latKsrc with
  | static => exact ⟨kmemHalf kmem i, by rw [recordOf, hk]⟩
  | generator =>
    obtain ⟨header, cells, hrec, -, -, hwhole⟩ := h.fromGenerator hk
    have hlt : i < w.krec.length := by
      rw [hrec, List.length_cons, hwhole hrows hcols]
      exact Nat.lt_succ_of_le hi
    exact ⟨w.krec[i], by rw [recordOf, hk]; exact List.getElem?_eq_getElem hlt⟩

/-- Of a record that is whole up to `n` cells, each of them can be read. -/
theorem cellCode_of_whole {read : Nat → Option Half} {n k : Nat}
    (h : ∀ i, i ≤ 5 * n → ∃ v, read i = some v) (hk : k < n) : ∃ c, cellCode read k = some c := by
  obtain ⟨tag, htag⟩ := h (1 + 5 * k) (by omega)
  obtain ⟨v0, h0⟩ := h (2 + 5 * k) (by omega)
  obtain ⟨v1, h1⟩ := h (3 + 5 * k) (by omega)
  obtain ⟨v2, h2⟩ := h (4 + 5 * k) (by omega)
  obtain ⟨v3, h3⟩ := h (5 + 5 * k) (by omega)
  exact ⟨.kcell tag v0 v1 v2 v3, by simp only [cellCode, htag, h0, h1, h2, h3]⟩

/-- The loop over the cells never runs past the record. -/
theorem State.Inv.cellCode_some (h : s.Inv) (hb : s.mode = .busy) (ha : atCell s = true) :
    ∃ c, cellCode (recordHalf s) s.work.ker.length = some c := by
  obtain ⟨hp, hd⟩ := atCell_iff.mp ha
  have pass := h.passAt hb hp
  obtain ⟨-, hrows, hcols, hlt, -⟩ := pass.cells hd
  exact cellCode_of_whole (fun i hi => (pass.header (by decide)).record_whole hrows hcols hi) hlt

/-! ### What always answers a next state -/

/-- A sequencer operation in a pass at a coordinate of the image: only `COLLECT` and `WRITE` could
fault, at a coordinate outside. -/
theorem exec_seq_next {i : Instr} (hi : i.format = .seq) (hb : s.mode = .busy)
    (scan : ScanOk s.work) : ∃ t, exec i s = .next t := by
  cases i with
  | idle => exact ⟨_, rfl⟩
  | collect =>
    obtain ⟨_, _, _, _, _, _, _, he, -⟩ := exec_collect_inside hb scan
    exact ⟨_, he⟩
  | kresolve =>
    rw [exec, execKresolve, whenBusy_of_busy hb]
    split <;> exact ⟨_, rfl⟩
  | kcheck =>
    rw [exec, execKcheck, whenBusy_of_busy hb]
    split_ifs <;> exact ⟨_, rfl⟩
  | ksum =>
    rw [exec, execKsum, whenBusy_of_busy hb]
    split_ifs <;> exact ⟨_, rfl⟩
  | mac => exact ⟨_, whenBusy_of_busy hb _⟩
  | norm =>
    rw [exec, execNorm, whenBusy_of_busy hb]
    split_ifs <;> exact ⟨_, rfl⟩
  | write =>
    rw [exec, execWrite, whenBusy_of_busy hb, offset_inside scan.inRow scan.inColumn]
    exact ⟨_, rfl⟩
  | _ => cases hi

/-- A command, in every state. -/
theorem exec_command_next {i : Instr} (hi : i.format = .cmd) (s : State) :
    ∃ t, exec i s = .next t := by
  cases i with
  | nop => exact ⟨_, rfl⟩
  | ack =>
    rw [exec, execAck]
    split <;> exact ⟨_, rfl⟩
  | convolve tag ksrc sizeValid size =>
    rw [exec, execConvolve]
    split_ifs <;> exact ⟨_, rfl⟩
  | _ => cases hi

/-- A command word, in every state: dropped, performed, or the error of an illegal word. -/
theorem commandTurn_next (v : RegWord) (s : State) : ∃ t, (commandTurn v s).answer = .next t := by
  obtain ⟨-, e⟩ | ⟨-, i, hd, e⟩ | ⟨-, why, -, e⟩ := commandTurn_cases v s <;> rw [e]
  · exact ⟨_, rfl⟩
  · exact exec_command_next (decodeCmd_format hd) s
  · exact ⟨_, rfl⟩

/-- The engine's turn, from a state that meets the invariant. -/
theorem State.Inv.engineTurn_next (h : s.Inv) : ∃ t, (engineTurn s).answer = .next t := by
  obtain ⟨-, e⟩ | ⟨hb, -, e⟩ | ⟨hb, ha, ⟨hnone, -⟩ | ⟨tag, v0, v1, v2, v3, -, hturn⟩⟩ :=
    engineTurn_cases s
  · rw [e]
    exact ⟨s, rfl⟩
  · rw [e]
    exact exec_seq_next (decodeSeq_format _) hb (h.pass hb).scan
  · obtain ⟨c, hc⟩ := h.cellCode_some hb ha
    cases hnone.symm.trans hc
  · obtain ⟨i, hi, e⟩ | ⟨why, -, e⟩ := hturn
    · obtain ⟨-, hreject⟩ | ⟨p, j, -, hj, hexec⟩ := decodeCell_cases tag v0 v1 v2 v3
      · cases hi.symm.trans hreject
      · cases hi.symm.trans hj
        rw [e]
        exact ⟨_, hexec s hb⟩
    · rw [e]
      exact ⟨_, rfl⟩

/-! ### The only fault -/

/-- An access to an input memory faults only beyond the space. -/
theorem inputAccess_fault {size addr : Nat} {after : State} {f : Fault}
    (h : inputAccess size addr s after = .fault f) : f = .noSuchAddress := by
  unfold inputAccess at h
  split_ifs at h
  cases h
  rfl

/-- So does a read of the output. -/
theorem omemRead_fault {addr : Nat} {f : Fault} (h : omemRead addr s = .fault f) :
    f = .noSuchAddress := by
  unfold omemRead at h
  split_ifs at h
  · cases h
    rfl
  · split at h <;> cases h

/-- An event, from a state that meets the invariant, faults only by such an access. -/
theorem eventTurn_fault (h : s.Inv) {e : Event} {f : Fault}
    (he : (eventTurn e s).answer = .fault f) : f = .noSuchAddress := by
  cases e with
  | engine =>
    obtain ⟨t, ht⟩ := h.engineTurn_next
    cases ht.symm.trans he
  | regWrite off v =>
    rw [eventTurn, regWriteTurn] at he
    split_ifs at he
    · cases he
    · obtain ⟨t, ht⟩ := commandTurn_next v s
      cases ht.symm.trans he
    · cases he
  | regRead off =>
    rw [eventTurn] at he
    split_ifs at he <;> cases he
  | imemWrite | imemRead | kmemWrite | kmemRead => exact inputAccess_fault he
  | omemRead => exact omemRead_fault he
  | reset => cases he

/-- The only fault of a step from a state that meets the invariant is a host access beyond its
space. -/
theorem step_fault (h : s.Inv) {f : Fault} (hstep : step s = .fault f) : f = .noSuchAddress := by
  cases hin : s.inbox with
  | nil =>
    obtain ⟨t, ht⟩ := h.engineTurn_next
    cases ht.symm.trans ((step_nil hin).symm.trans hstep)
  | cons e later =>
    exact eventTurn_fault (h.withInbox later) ((step_cons hin).symm.trans hstep)

end Sys2Proof.Machine

open Sys2Proof Sys2Proof.Machine

/-- Settles O58: a step's only fault is `noSuchAddress`, which is neither of the two. -/
theorem engineNeverFaults : Obligations.EngineNeverFaults := by
  intro s h
  constructor
  · intro hstep
    cases step_fault h hstep
  · intro hstep
    cases step_fault h hstep

end

section
/-! Kernel resolution (42_kernel_resolution.md): what `KRESOLVE` and `KCHECK` answer in a running pass,
how long an unanswered exchange lasts, the run of `KCHECK`'s loop over the cells, and the shapes of the
Areas of an image. -/

namespace Sys2Proof.Machine

variable {s t : State}

/-! ### KRESOLVE (R106 to R109, R113) -/

/-- With the static source `KRESOLVE` takes the header in `KMEM` (R107). -/
theorem exec_kresolve_static (hb : s.mode = .busy) (hk : s.work.latKsrc = .static) :
    exec .kresolve s = .next (takeHeader (kmemHalf s.kmem 0) [] s) := by
  rw [exec, execKresolve, whenBusy_of_busy hb, hk]

/-- With the generator source it performs the two halves of an exchange (R108, R109). -/
theorem exec_kresolve_generator (hb : s.mode = .busy) (hk : s.work.latKsrc = .generator) :
    exec .kresolve s = .next (receiveRecord (sendArea s)) := by
  rw [exec, execKresolve, whenBusy_of_busy hb, hk]

/-- The sending half as one record update. -/
theorem sendArea_eq_update (s : State) :
    sendArea s = { s with
      genOpen := true
      genOut := if s.genOpen then s.genOut else s.genOut ++ [areaRecord s.work] } := by
  unfold sendArea
  split_ifs with hopen
  · rw [← hopen]
  · rfl

/-- A record is sent once for an exchange (R108). -/
theorem sendArea_idem (s : State) : sendArea (sendArea s) = sendArea s :=
  if_pos (sendArea_genOpen s)

/-- An answer is complete unless it has the Area's shape and too few cells; its cells are taken only
if it has that shape (R109). -/
theorem takeAnswer_of_complete {rows cols : BitVec 8} {h : Half} {cells : List Half}
    (hcells : headerRows h = rows → headerCols h = cols →
      5 * (rows.toNat * cols.toNat) ≤ cells.length) :
    takeAnswer rows cols (h :: cells) =
      some (h, if headerRows h = rows ∧ headerCols h = cols then
        cells.take (5 * (rows.toNat * cols.toNat)) else []) := by
  by_cases hshape : headerRows h = rows ∧ headerCols h = cols
  · simp only [takeAnswer, if_pos hshape, if_pos (hcells hshape.1 hshape.2)]
  · simp only [takeAnswer, if_neg hshape]

/-- A complete answer ends the exchange with its header and cells (R109). -/
theorem receiveRecord_of_some {answer cells : List Half} {later : List (List Half)} {h : Half}
    (hin : s.genIn = answer :: later)
    (htake : takeAnswer s.work.rows s.work.cols answer = some (h, cells)) :
    receiveRecord s = takeHeader h (h :: cells) { s with genOpen := false, genIn := later } := by
  simp [receiveRecord, hin, htake]

/-- Without a complete answer the exchange stays open (R113). -/
theorem receiveRecord_of_none
    (hnone : ∀ answer later, s.genIn = answer :: later →
      takeAnswer s.work.rows s.work.cols answer = none) : receiveRecord s = s := by
  obtain ⟨e, -⟩ | ⟨answer, later, h, cells, hin, htake, -⟩ := receiveRecord_cases s
  · exact e
  · cases (hnone answer later hin).symm.trans htake

/-- The engine is in `KRESOLVE` with no complete answer to take and no event to come (R113). -/
structure Unanswered (s : State) : Prop where
  busy : s.mode = .busy
  phase : s.phase = 0b010
  generator : s.work.latKsrc = .generator
  quiet : s.inbox = []
  incomplete : ∀ answer later, s.genIn = answer :: later →
    takeAnswer s.work.rows s.work.cols answer = none

/-- The Area record's leaving brings no answer. -/
theorem Unanswered.after_sendArea (h : Unanswered s) : Unanswered (sendArea s) where
  busy := by simp [h.busy]
  phase := by simp [h.phase]
  generator := by simp [h.generator]
  quiet := by simp [h.quiet]
  incomplete := by simpa using h.incomplete

/-- A step without an answer can only send the Area record. -/
theorem Unanswered.step_eq (h : Unanswered s) : step s = .next (sendArea s) := by
  have hturn : engineTurn s = .run .kresolve s := by
    rw [engineTurn_of_phase h.busy (by simp [atCell, h.phase]), h.phase]
    rfl
  rw [step_nil h.quiet, hturn, Plan.answer, exec_kresolve_generator h.busy h.generator,
    receiveRecord_of_none h.after_sendArea.incomplete]

/-! ### CONVOLVE's size check (R105, R159) -/

/-- With a valid source and a resolved size of 0 the pass is refused before any coordinate. -/
theorem acceptPass_of_size_zero {tag : BitVec 4} {k : KernelSource} {v : Bool} {z : BitVec 8}
    (htag : tag.toNat ≤ 1) (hW : s.imgW ≠ 0) (hH : s.imgH ≠ 0) (hsize : resolveSize k v z s = 0) :
    acceptPass tag k v z s = raise .configuration 0 0 (configInfo 2 0) s := by
  rw [acceptPass, if_neg (not_or.mpr ⟨not_lt.mpr htag, not_or.mpr ⟨hW, hH⟩⟩), if_pos hsize]

/-- The completion record and the output, which `CONVOLVE` discards first (R138), have no part in
that. -/
theorem exec_convolve_of_size_zero {tag : BitVec 4} {k : KernelSource} {v : Bool} {z : BitVec 8}
    (hb : s.mode ≠ .busy) (htag : tag.toNat ≤ 1) (hW : s.imgW ≠ 0) (hH : s.imgH ≠ 0)
    (hsize : resolveSize k v z s = 0) :
    exec (.convolve tag k v z) s =
      .next (raise .configuration 0 0 (configInfo 2 0) (dropOutput (clearRecord s))) := by
  rw [exec, execConvolve, if_neg hb,
    acceptPass_of_size_zero (s := dropOutput (clearRecord s)) htag hW hH hsize]

/-! ### Runs -/

theorem run_succ_of_step {n : Nat} (h : step s = .next t) : run (n + 1) s = run n t := by
  rw [run, h]

theorem run_one_of_fault {f : Fault} (h : step s = .fault f) : run 1 s = .fault f := by
  rw [run, h]

/-- Any positive number of steps without an answer is one such step (R113, U6). -/
theorem Unanswered.run_succ (h : Unanswered s) (n : Nat) :
    run (n + 1) s = .next (sendArea s) := by
  induction n generalizing s with
  | zero => rw [run_succ_of_step h.step_eq, run]
  | succ n ih => rw [run_succ_of_step h.step_eq, ih h.after_sendArea, sendArea_idem]

/-! ### The `GEN` port (R44, R108) -/

/-- From `s` to `t` nothing was sent, received, opened or closed on `GEN`. -/
structure GenKept (s t : State) : Prop where
  sent : t.genOut = s.genOut
  answers : t.genIn = s.genIn
  exchange : t.genOpen = s.genOpen

/-- A change of the other fields keeps `GEN`. -/
theorem GenKept.update {mode : Mode} {phase : BitVec 3} {errCode : ErrCode}
    {errX errY : BitVec 16} {errInfo : RegWord} {work : Work} {omem : List Host.Cell}
    {omemValid : Bool} {fresh : Nat} :
    GenKept s { s with
      mode := mode, phase := phase, errCode := errCode, errX := errX, errY := errY
      errInfo := errInfo, work := work, omem := omem, omemValid := omemValid
      fresh := fresh } :=
  ⟨rfl, rfl, rfl⟩

/-- A guarded operation keeps `GEN` if its answer in a pass does. -/
theorem genKept_whenBusy {o : Answer} (he : whenBusy s o = .next t)
    (ho : o = .next t → GenKept s t) : GenKept s t := by
  obtain ⟨-, h⟩ | ⟨-, rfl⟩ := whenBusy_cases he
  · exact ho h
  · exact .update

theorem genKept_acceptPass (tag : BitVec 4) (ksrc : KernelSource) (sizeValid : Bool)
    (size : BitVec 8) (s : State) :
    GenKept s (acceptPass tag ksrc sizeValid size (dropOutput (clearRecord s))) := by
  unfold acceptPass
  split_ifs <;> exact .update

theorem genKept_putCell (p : Weight) (s : State) : GenKept s (putCell p s) :=
  ⟨putCell_genOut p s, putCell_genIn p s, putCell_genOpen p s⟩

theorem genKept_advance (omem : List Host.Cell) (s : State) :
    GenKept s (advance { s with omem := omem }) := by
  obtain ⟨x, y, -, e⟩ | ⟨-, e⟩ := advance_cases { s with omem := omem } <;>
    rw [e] <;> exact .update

/-- No operation but `KRESOLVE` uses the port. -/
theorem exec_genKept {i : Instr} (hi : i ≠ .kresolve) (he : exec i s = .next t) : GenKept s t := by
  cases i with
  | nop | idle =>
    cases he
    exact .update
  | convolve =>
    rw [exec, execConvolve] at he
    split_ifs at he <;> cases he
    · exact .update
    · exact genKept_acceptPass _ _ _ _ s
  | ack =>
    rw [exec, execAck] at he
    split at he <;> cases he <;> exact .update
  | pixel0 | scalar | pixel2 | pixel3 | pixel4 =>
    refine genKept_whenBusy he fun h => ?_
    cases h
    exact genKept_putCell _ s
  | kresolve => exact absurd rfl hi
  | collect =>
    refine genKept_whenBusy he fun h => ?_
    split at h <;> cases h
    exact .update
  | kcheck | ksum | norm =>
    refine genKept_whenBusy he fun h => ?_
    split_ifs at h <;> cases h <;> exact .update
  | mac =>
    refine genKept_whenBusy he fun h => ?_
    cases h
    exact .update
  | write =>
    refine genKept_whenBusy he fun h => ?_
    split at h <;> cases h
    exact genKept_advance _ s

/-- The receiving half sends nothing. -/
theorem receiveRecord_genOut (s : State) : (receiveRecord s).genOut = s.genOut := by
  obtain ⟨e, -⟩ | ⟨_, _, _, _, -, -, e⟩ := receiveRecord_cases s <;> rw [e]
  rfl

/-- `KRESOLVE` sends nothing, or one Area record with no exchange open. -/
theorem exec_kresolve_genOut (he : exec .kresolve s = .next t) :
    t.genOut = s.genOut ∨ s.genOpen = false ∧ t.genOut = s.genOut ++ [areaRecord s.work] := by
  obtain ⟨hb, -⟩ | ⟨-, rfl⟩ := whenBusy_cases he
  · cases hk : s.work.latKsrc with
    | static =>
      cases (exec_kresolve_static hb hk).symm.trans he
      exact .inl rfl
    | generator =>
      cases (exec_kresolve_generator hb hk).symm.trans he
      rw [receiveRecord_genOut, sendArea_genOut]
      cases s.genOpen
      · exact .inr ⟨rfl, rfl⟩
      · exact .inl rfl
  · exact .inl rfl

/-! ### KCHECK's shape check (R110) -/

theorem exec_kcheck_other_shape (hb : s.mode = .busy)
    (h : s.work.krows ≠ s.work.rows ∨ s.work.kcols ≠ s.work.cols) :
    exec .kcheck s = .next (raiseInPass .kernelShape
      (shapeInfo s.work.rows s.work.cols s.work.krows s.work.kcols) s) := by
  rw [exec, execKcheck, whenBusy_of_busy hb, if_pos h]

theorem exec_kcheck_same_shape (hb : s.mode = .busy) (hrows : s.work.krows = s.work.rows)
    (hcols : s.work.kcols = s.work.cols) :
    exec .kcheck s = .next { s with work := { s.work with ker := [], decoding := true } } := by
  rw [exec, execKcheck, whenBusy_of_busy hb, if_neg (by simp [hrows, hcols])]

/-! ### KCHECK's loop over the cells (R110, R111) -/

/-- What the expansion of the next cell comes to. -/
theorem expandCells_succ_cases (read : Nat → Option Half) (k n : Nat) :
    (cellCode read k = none ∧ expandCells read k (n + 1) = .short) ∨
    ∃ tag v0 v1 v2 v3, cellCode read k = some (.kcell tag v0 v1 v2 v3) ∧
      ((mkPixel tag v0 v1 v2 v3 = none ∧ expandCells read k (n + 1) = .reserved k) ∨
        ∃ p, mkPixel tag v0 v1 v2 v3 = some p ∧
          expandCells read k (n + 1) = consCell p (expandCells read (k + 1) n)) := by
  cases hc : cellCode read k with
  | none => exact .inl ⟨rfl, by rw [expandCells, hc]⟩
  | some c =>
    obtain ⟨tag, v0, v1, v2, v3, rfl, -⟩ := cellCode_some hc
    refine .inr ⟨tag, v0, v1, v2, v3, rfl, ?_⟩
    cases hp : mkPixel tag v0 v1 v2 v3 with
    | none => exact .inl ⟨rfl, by simp only [expandCells, hc, hp]⟩
    | some p => exact .inr ⟨p, rfl, by simp only [expandCells, hc, hp]⟩

/-- Where every cell can be read, the record is not cut short. -/
theorem expandCells_ne_short {read : Nat → Option Half} {n : Nat} :
    ∀ {k : Nat}, (∀ j, j < k + n → ∃ c, cellCode read j = some c) →
      expandCells read k n ≠ .short := by
  induction n with
  | zero => exact fun _ => nofun
  | succ n ih =>
    intro k h
    obtain ⟨hnone, -⟩ | ⟨_, _, _, _, _, -, ⟨-, e⟩ | ⟨p, -, e⟩⟩ := expandCells_succ_cases read k n
    · obtain ⟨c, hc⟩ := h k (by omega)
      cases hnone.symm.trans hc
    · rw [e]
      nofun
    · have hrest := ih (k := k + 1) fun j hj => h j (by omega)
      rw [e]
      cases hr : expandCells read (k + 1) n with
      | short => exact absurd hr hrest
      | kernel | reserved => nofun

/-- A cell's weight joins the buffer; behind the last cell the phase is `KSUM` and the loop over. -/
theorem putCell_eq_update (p : Weight) (s : State) :
    putCell p s = { s with
      phase := if s.work.ker.length + 1 < s.work.rows.toNat * s.work.cols.toNat then s.phase
        else 0b100
      work := { s.work with
        ker := s.work.ker ++ [p]
        decoding := if s.work.ker.length + 1 < s.work.rows.toNat * s.work.cols.toNat then
          s.work.decoding else false } } := by
  unfold putCell
  split_ifs <;> rfl

/-- The loop of a running pass has `n` cells left, with no event to come. -/
structure CellsLeft (n : Nat) (s : State) : Prop where
  busy : s.mode = .busy
  quiet : s.inbox = []
  count : s.work.ker.length + n = s.work.rows.toNat * s.work.cols.toNat
  inLoop : n ≠ 0 → s.phase = 0b011 ∧ s.work.decoding = true
  ended : n = 0 → s.phase = 0b100 ∧ s.work.decoding = false

/-- Once a cell's weight is put there is one cell fewer. -/
theorem CellsLeft.after_putCell {n : Nat} (h : CellsLeft (n + 1) s) (p : Weight) :
    CellsLeft n (putCell p s) := by
  obtain ⟨hphase, hdecoding⟩ := h.inLoop n.succ_ne_zero
  have hcount := h.count
  have hmore : s.work.ker.length + 1 < s.work.rows.toNat * s.work.cols.toNat ↔ n ≠ 0 := by omega
  rw [putCell_eq_update]
  simp only [hmore]
  exact {
    busy := h.busy
    quiet := h.quiet
    count := by
      rw [List.length_append, ← hcount]
      exact Nat.add_right_comm _ _ _
    inLoop := fun hn => ⟨(if_pos hn).trans hphase, (if_pos hn).trans hdecoding⟩
    ended := fun hn => ⟨if_neg (not_not.mpr hn), if_neg (not_not.mpr hn)⟩ }

theorem CellsLeft.atCell_eq {n : Nat} (h : CellsLeft (n + 1) s) : atCell s = true :=
  atCell_iff.mpr (h.inLoop n.succ_ne_zero)

/-- The step at a cell the record does not reach to (log 24). -/
theorem CellsLeft.step_short {n : Nat} (h : CellsLeft (n + 1) s)
    (hc : cellCode (recordHalf s) s.work.ker.length = none) :
    step s = .fault .recordTooShort := by
  rw [step_nil h.quiet]
  simp [engineTurn, h.busy, h.atCell_eq, cellTurn, hc, Plan.answer]

/-- The step at a cell with a reserved tag (R71). -/
theorem CellsLeft.step_reserved {n : Nat} (h : CellsLeft (n + 1) s) {tag v0 v1 v2 v3 : Half}
    (hc : cellCode (recordHalf s) s.work.ker.length = some (.kcell tag v0 v1 v2 v3))
    (hp : mkPixel tag v0 v1 v2 v3 = none) : step s = .next (reservedCell s) := by
  have hd := decodeCell_reserved ((mkPixel_eq_none_iff tag v0 v1 v2 v3).mp hp) v0 v1 v2 v3
  rw [step_nil h.quiet, engineTurn_of_rejected_cell h.busy h.atCell_eq hc hd, Plan.answer]

/-- The step at any other cell puts the Pixel `MKPIXEL` builds (R110). -/
theorem CellsLeft.step_pixel {n : Nat} (h : CellsLeft (n + 1) s) {tag v0 v1 v2 v3 : Half}
    {p : Weight} (hc : cellCode (recordHalf s) s.work.ker.length = some (.kcell tag v0 v1 v2 v3))
    (hp : mkPixel tag v0 v1 v2 v3 = some p) : step s = .next (putCell p s) := by
  obtain ⟨hnone, -⟩ | ⟨q, i, hq, hd, hexec⟩ := decodeCell_cases tag v0 v1 v2 v3
  · cases hnone.symm.trans hp
  · cases hq.symm.trans hp
    rw [step_nil h.quiet, engineTurn_of_cell h.busy h.atCell_eq hc hd, Plan.answer,
      hexec s h.busy]

/-- What a run of the loop with `n` cells left shows of their expansion: the buffer grown by their
weights, the error at the reserved one, or the fault. -/
def ShowsCells (n : Nat) (s : State) : CellsOutcome → Prop
  | .kernel ker => run n s = .next { s with
      phase := 0b100
      work := { s.work with ker := s.work.ker ++ ker, decoding := false } }
  | .reserved k => ∃ m, m ≤ n ∧
      run m s = .next (raiseInPass .configuration (configInfo 3 (BitVec.ofNat 16 k)) s)
  | .short => ∃ m, run m s = .fault .recordTooShort

/-- A run shows one cell more from a step earlier. The phase, the buffer and the loop's flag do not
reach the state `ERROR`, whose working registers are undefined (R27). -/
theorem ShowsCells.step_before {n : Nat} {p : Weight} {o : CellsOutcome}
    (hstep : step s = .next (putCell p s)) (h : ShowsCells n (putCell p s) o) :
    ShowsCells (n + 1) s (consCell p o) := by
  rw [putCell_eq_update] at hstep h
  cases o with
  | kernel ker =>
    refine (run_succ_of_step hstep).trans (h.trans ?_)
    rw [List.append_assoc]
    rfl
  | reserved k =>
    obtain ⟨m, hm, hrun⟩ := h
    exact ⟨m + 1, Nat.succ_le_succ hm, (run_succ_of_step hstep).trans hrun⟩
  | short =>
    obtain ⟨m, hrun⟩ := h
    exact ⟨m + 1, (run_succ_of_step hstep).trans hrun⟩

/-- A cell's weight changes nothing of the record. -/
theorem recordHalf_putCell (p : Weight) (s : State) :
    recordHalf (putCell p s) = recordHalf s := by
  rw [putCell_eq_update]
  exact recordOf_congr rfl rfl

/-- The loop over the cells is their expansion by `MKPIXEL`, in increasing index (R110, R111). -/
theorem CellsLeft.shows_expansion {n : Nat} (h : CellsLeft n s) :
    ShowsCells n s (expandCells (recordHalf s) s.work.ker.length n) := by
  induction n generalizing s with
  | zero =>
    obtain ⟨hphase, hdecoding⟩ := h.ended rfl
    simp only [expandCells, ShowsCells, run, List.append_nil, ← hphase, ← hdecoding]
  | succ n ih =>
    obtain ⟨hc, e⟩ | ⟨tag, v0, v1, v2, v3, hc, ⟨hp, e⟩ | ⟨p, hp, e⟩⟩ :=
      expandCells_succ_cases (recordHalf s) s.work.ker.length n <;> rw [e]
    · exact ⟨1, run_one_of_fault (h.step_short hc)⟩
    · exact ⟨1, Nat.succ_le_succ n.zero_le, run_succ_of_step (h.step_reserved hc hp)⟩
    · have hrest := ih (h.after_putCell p)
      rw [recordHalf_putCell, putCell_ker, List.length_append] at hrest
      exact hrest.step_before (h.step_pixel hc hp)

/-- `KCHECK`'s turn with the Area's shape: the loop begins, with every cell of the Area left. -/
theorem step_kcheck_same_shape (hb : s.mode = .busy) (hphase : s.phase = 0b011)
    (hdecoding : s.work.decoding = false) (hin : s.inbox = [])
    (hrows : s.work.krows = s.work.rows) (hcols : s.work.kcols = s.work.cols) :
    step s = .next { s with work := { s.work with ker := [], decoding := true } } := by
  have hturn : engineTurn s = .run .kcheck s := by
    rw [engineTurn_of_phase hb (by simp [atCell, hdecoding]), hphase]
    rfl
  rw [step_nil hin, hturn, Plan.answer, exec_kcheck_same_shape hb hrows hcols]

/-! ### The shapes of an image's Areas (R112) -/

variable {W H half : Nat}

/-- The clamped extent of an Area around `c`, on a side of `n` pixels (R96). -/
def clampedExtent (n half c : Nat) : Nat := min (n - 1) (c + half) - (c - half) + 1

theorem boxRows_areaBox (W H half x y : Nat) :
    boxRows (areaBox W H half x y) = clampedExtent H half y := rfl

theorem boxCols_areaBox (W H half x y : Nat) :
    boxCols (areaBox W H half x y) = clampedExtent W half x := rfl

/-- A side has one extent everywhere when there is nothing to clamp, or every Area spans it. -/
theorem clampedExtent_constant_iff (n half : Nat) :
    (∀ c, c < n → clampedExtent n half c = clampedExtent n half 0) ↔ half = 0 ∨ n ≤ half + 1 := by
  simp only [clampedExtent]
  constructor
  · intro h
    by_contra hne
    have := h 1 (by omega)
    omega
  · intro h c hc
    omega

/-- Rows and columns are clamped each by themselves, so the Areas have one shape when each side has
one extent. -/
theorem areaBox_shape_constant_iff (hW : 1 ≤ W) (hH : 1 ≤ H) :
    (∀ x y, x < W → y < H →
      boxRows (areaBox W H half x y) = boxRows (areaBox W H half 0 0) ∧
      boxCols (areaBox W H half x y) = boxCols (areaBox W H half 0 0)) ↔
    half = 0 ∨ (W ≤ half + 1 ∧ H ≤ half + 1) := by
  rw [or_and_left, ← clampedExtent_constant_iff W, ← clampedExtent_constant_iff H]
  simp only [boxRows_areaBox, boxCols_areaBox]
  exact ⟨fun h => ⟨fun x hx => (h x 0 hx hH).2, fun y hy => (h 0 y hW hy).1⟩,
    fun ⟨hcols, hrows⟩ x y hx hy => ⟨hrows y hy, hcols x hx⟩⟩

/-- In a corner at most half of the Area's height is left (R96). -/
theorem boxRows_corner_le (W H half : Nat) : boxRows (areaBox W H half 0 0) ≤ half + 1 := by
  rw [boxRows_areaBox, clampedExtent]
  omega

/-- A pass begins at `(0, 0)` (R144). -/
theorem rasterCoords_eq_cons (hW : 1 ≤ W) (hH : 1 ≤ H) :
    ∃ rest, rasterCoords W H = (0, 0) :: rest := by
  obtain ⟨W, rfl⟩ := Nat.exists_eq_add_of_le' hW
  obtain ⟨H, rfl⟩ := Nat.exists_eq_add_of_le' hH
  simp only [rasterCoords, List.range_succ_eq_map, List.flatMap_cons, List.map_cons,
    List.cons_append]
  exact ⟨_, rfl⟩

/-- The error of the first coordinate is the error of the pass (R146, R161). -/
theorem wholePass_of_raised {imem : List Host.Cell} {ksrc : KernelFn} {e : ErrCode} {info : RegWord}
    (hW : 1 ≤ W) (hH : 1 ≤ H) (h : convPixel imem W H half ksrc 0 0 = .raised e info) :
    wholePass imem W H half ksrc = .error e 0 0 info := by
  obtain ⟨rest, hrest⟩ := rasterCoords_eq_cons hW hH
  rw [wholePass, hrest, passOver, h]

/-- A record of another height than the Area's is `KernelShapeError` at the coordinate (R110). -/
theorem convPixel_of_other_rows {imem : List Host.Cell} {kmem : List (Nat × Half)} {x y : Nat}
    (hx : x < W) (hy : y < H)
    (hrows : (headerRows (kmemHalf kmem 0)).toNat ≠ boxRows (areaBox W H half x y)) :
    ∃ info, convPixel imem W H half (staticKernel kmem) x y = .raised .kernelShape info := by
  obtain ⟨win, hwin, -⟩ := sampleWindow_some imem (half := half) hx hy
  rw [convPixel, if_pos ⟨hx, hy⟩]
  simp only [hwin]
  exact ⟨_, if_pos (.inl hrows)⟩

end Sys2Proof.Machine

open Sys2Proof Sys2Proof.Machine

/-- Settles O14: the header is taken from `KMEM`. -/
theorem kresolveTakesTheStaticHeader : Obligations.KresolveTakesTheStaticHeader :=
  fun _ hb hk => exec_kresolve_static hb hk

/-- Settles O15: the Area record is sent, and the complete answer ends the exchange. -/
theorem kresolveMakesOneExchange : Obligations.KresolveMakesOneExchange := by
  intro s h cells later hb hk hin hcells
  have htake := takeAnswer_of_complete hcells
  rw [exec_kresolve_generator hb hk, receiveRecord_of_some (s := sendArea s) (by simpa using hin)
    (by simpa using htake), sendArea_eq_update]
  rfl

/-- Settles O16: the first step sends the Area record, the others do nothing. -/
theorem unansweredExchangeWaitsForEver : Obligations.UnansweredExchangeWaitsForEver := by
  intro s n hb hphase hk hin hnone
  have waits : Unanswered s := ⟨hb, hphase, hk, hin, hnone⟩
  rw [waits.run_succ, sendArea_eq_update]

/-- Settles O18: operation by operation, then the two halves of `KRESOLVE`'s exchange. -/
theorem onlyKresolveUsesGen : Obligations.OnlyKresolveUsesGen := by
  intro i s t he
  refine ⟨fun hi => ?_, ?_⟩
  · obtain ⟨sent, answers, exchange⟩ := exec_genKept hi he
    exact ⟨sent, answers, exchange⟩
  · by_cases hi : i = .kresolve
    · subst hi
      exact (exec_kresolve_genOut he).imp_right fun h => ⟨rfl, h⟩
    · exact .inl (exec_genKept hi he).sent

/-- Settles O19: the check raises at the coordinate, and the output is dropped. -/
theorem kcheckRejectsAnotherShape : Obligations.KcheckRejectsAnotherShape :=
  fun s hb hshape => ⟨_, exec_kcheck_other_shape hb hshape, rfl, rfl, rfl, rfl, rfl,
    shapeInfo_toNat _ _ _ _, outputByte_raiseInPass _ _ s, rfl⟩

/-- Settles O20: the check passes. -/
theorem kcheckStartsAtTheFirstCell : Obligations.KcheckStartsAtTheFirstCell :=
  fun _ hb hrows hcols => exec_kcheck_same_shape hb hrows hcols

/-- Settles O21: the shape check opens the loop at cell 0, and the loop is the expansion. -/
theorem kcheckExpandsEveryCell : Obligations.KcheckExpandsEveryCell := by
  intro s hb hphase hdecoding hin hrows hcols hrows1 hcols1
  refine ⟨fun header => expandCells_ne_short fun j hj => cellCode_of_whole
    (fun i hi => header.record_whole hrows hcols hi) (by simpa using hj), ?_⟩
  have hpos := Nat.mul_pos hrows1 hcols1
  have hstep := step_kcheck_same_shape hb hphase hdecoding hin hrows hcols
  have loop : CellsLeft (s.work.rows.toNat * s.work.cols.toNat)
      { s with work := { s.work with ker := [], decoding := true } } :=
    { busy := hb
      quiet := hin
      count := Nat.zero_add _
      inLoop := fun _ => ⟨hphase, rfl⟩
      ended := fun hn => absurd hn hpos.ne' }
  have shows := loop.shows_expansion
  change ShowsCells _ _ (expandCells (recordHalf s) 0 _) at shows
  rw [Nat.add_comm 1]
  cases he : expandCells (recordHalf s) 0 (s.work.rows.toNat * s.work.cols.toNat) with
  | kernel ker =>
    rw [he] at shows
    exact (run_succ_of_step hstep).trans shows
  | reserved k =>
    rw [he] at shows
    obtain ⟨m, hm, hrun⟩ := shows
    exact ⟨m + 1, _, (run_succ_of_step hstep).trans hrun, Nat.succ_le_succ hm, rfl, rfl, rfl, rfl,
      rfl⟩
  | short =>
    rw [he] at shows
    obtain ⟨m, hrun⟩ := shows
    exact ⟨m + 1, (run_succ_of_step hstep).trans hrun⟩

/-- Settles O22: the sides are clamped each by themselves, and the corner's Area is lower than the
full-size record. -/
theorem staticKernelsNeedOneShape : Obligations.StaticKernelsNeedOneShape := by
  intro W H half hW hH _
  refine ⟨areaBox_shape_constant_iff hW hH, fun imem kmem hhalf hrows _ => ?_⟩
  have hcorner := boxRows_corner_le W H half
  obtain ⟨info, hraised⟩ := convPixel_of_other_rows (imem := imem) (kmem := kmem) (half := half)
    hW hH (by omega)
  exact ⟨info, wholePass_of_raised hW hH hraised⟩

/-- Settles O38: the source is valid, so the size decides. -/
theorem convolveRejectsSizeZero : Obligations.ConvolveRejectsSizeZero :=
  fun _ _ _ _ _ hb htag hW hH hsize => ⟨_, exec_convolve_of_size_zero hb htag hW hH hsize,
    rfl, rfl, rfl, rfl, rfl, rfl, fun _ => if_neg Bool.false_ne_true, rfl⟩

end

section
/-! The accumulator and the normalizer (43_accumulator_normalizer.md), one colour channel at a time: the
three lanes of the model are one sum, one weighted sum and one quotient, each taken on one channel `c` of
the weights and one channel `p` of the samples. -/

namespace Sys2Proof.Machine

/-! ### A channel's accumulators -/

/-- The sum of a channel's weights (R120), as an integer. -/
def weightSum (c : Weight → Half) (ker : List Weight) : Int := (ker.map fun k => (c k).toInt).sum

/-- The sum of a channel's products (R122), as an integer. -/
def productSum (p : Sample → Byte) (c : Weight → Half) (win : List Sample) (ker : List Weight) :
    Int :=
  ((win.zip ker).map fun x => ((p x.1).toNat : Int) * (c x.2).toInt).sum

/-- A channel's lane of `ksumOf`. -/
def weightLane (c : Weight → Half) (ker : List Weight) : BitVec 48 :=
  ker.foldl (fun acc k => acc + (c k).signExtend 48) 0

/-- A channel's lane of `asumOf`. -/
def productLane (p : Sample → Byte) (c : Weight → Half) (win : List Sample) (ker : List Weight) :
    BitVec 48 :=
  (win.zip ker).foldl (fun acc x => acc + (product (p x.1) (c x.2)).signExtend 48) 0

/-- A channel's quotient of the sums of a window and a kernel (R124). -/
def laneQuotient (p : Sample → Byte) (c : Weight → Half) (win : List Sample) (ker : List Weight) :
    BitVec 48 :=
  quotient (productLane p c win ker) (weightLane c ker)

theorem ksumOf_eq (ker : List Weight) :
    ksumOf ker = ⟨weightLane Pixel.r ker, weightLane Pixel.g ker, weightLane Pixel.b ker⟩ :=
  ksumOf_lanes ker

theorem asumOf_eq (win : List Sample) (ker : List Weight) :
    asumOf win ker = ⟨productLane Pixel.r Pixel.r win ker, productLane Pixel.g Pixel.g win ker,
      productLane Pixel.b Pixel.b win ker⟩ :=
  asumOf_lanes win ker

theorem quotOf_sums (win : List Sample) (ker : List Weight) :
    quotOf (asumOf win ker) (ksumOf ker) = ⟨laneQuotient Pixel.r Pixel.r win ker,
      laneQuotient Pixel.g Pixel.g win ker, laneQuotient Pixel.b Pixel.b win ker⟩ := by
  rw [asumOf_eq, ksumOf_eq]
  rfl

section
variable {win : List Sample} {ker ker' : List Weight} (p : Sample → Byte) (c : Weight → Half)

/-! ### The accumulators are exact (R123) -/

theorem length_zip_le {n : Nat} (win : List Sample) (h : ker.length ≤ n) :
    (win.zip ker).length ≤ n := by
  rw [List.length_zip]
  exact (Nat.min_le_right _ _).trans h

theorem weightSum_abs_le (h : ker.length ≤ 65025) : |weightSum c ker| ≤ 2130739200 := by
  have := abs_sum_le (fun k => (c k).toInt) 32768 ker fun k _ => weight_abs_le (c k)
  rw [weightSum]
  omega

theorem productSum_abs_le (h : (win.zip ker).length ≤ 65025) :
    |productSum p c win ker| ≤ 543338496000 := by
  have := abs_sum_le (fun x : Sample × Weight => ((p x.1).toNat : Int) * (c x.2).toInt) 8355840
    (win.zip ker) fun x _ => product_abs_le (p x.1) (c x.2)
  rw [productSum]
  omega

theorem weightLane_toInt (h : ker.length ≤ 65025) : (weightLane c ker).toInt = weightSum c ker := by
  rw [weightLane, laneSum_toInt _ 32768 (by decide) ker
    (fun k _ => (weight_toInt (c k)).symm ▸ weight_abs_le (c k)) 0
    (by rw [BitVec.ofNat_eq_ofNat, BitVec.toInt_zero, abs_zero]; omega)]
  simp [weightSum, weight_toInt]

theorem productLane_toInt (h : (win.zip ker).length ≤ 65025) :
    (productLane p c win ker).toInt = productSum p c win ker := by
  rw [productLane, laneSum_toInt _ 8355840 (by decide) (win.zip ker)
    (fun x _ => (product_toInt (p x.1) (c x.2)).symm ▸ product_abs_le (p x.1) (c x.2)) 0
    (by rw [BitVec.ofNat_eq_ofNat, BitVec.toInt_zero, abs_zero]; omega)]
  simp [productSum, product_toInt]

theorem weightLane_eq_zero_iff (h : ker.length ≤ 65025) :
    weightLane c ker = 0 ↔ weightSum c ker = 0 := by
  rw [← weightLane_toInt c h, ← BitVec.toInt_inj]
  rfl

/-- No quotient of a pass leaves its register (R124). -/
theorem laneQuotient_toInt (h : ker.length ≤ 65025) :
    (laneQuotient p c win ker).toInt = Int.tdiv (productSum p c win ker) (weightSum c ker) := by
  have hzip := length_zip_le win h
  have hbound := productSum_abs_le p c hzip
  rw [laneQuotient, quotient_toInt _ _ (by rw [productLane_toInt p c hzip]; omega),
    productLane_toInt p c hzip, weightLane_toInt c h]

/-! ### A scaled channel (R126) -/

/-- A common factor drops out of a quotient toward zero, whatever its sign. -/
theorem tdiv_mul_left {m : Int} (hm : m ≠ 0) (a k : Int) :
    Int.tdiv (m * a) (m * k) = Int.tdiv a k := by
  obtain hneg | hpos := lt_or_gt_of_ne hm
  · rw [← Int.mul_tdiv_mul_of_pos a k (neg_pos.mpr hneg), neg_mul, neg_mul, Int.neg_tdiv,
      Int.tdiv_neg, neg_neg]
  · exact Int.mul_tdiv_mul_of_pos a k hpos

variable {c} {m : Int}

theorem weightSum_scaled
    (h : List.Forall₂ (fun k k' => (c k').toInt = m * (c k).toInt) ker ker') :
    weightSum c ker' = m * weightSum c ker := by
  unfold weightSum
  induction h with
  | nil => simp
  | cons hk _ ih => simp [hk, ih, mul_add]

theorem productSum_scaled
    (h : List.Forall₂ (fun k k' => (c k').toInt = m * (c k).toInt) ker ker') :
    productSum p c win ker' = m * productSum p c win ker := by
  unfold productSum
  induction h generalizing win with
  | nil => simp
  | cons hk _ ih =>
    cases win with
    | nil => simp
    | cons x win => simp [hk, ih, mul_add, mul_left_comm]

theorem weightLane_scaled_eq_zero_iff (hm : m ≠ 0) (hlen : ker.length ≤ 65025)
    (h : List.Forall₂ (fun k k' => (c k').toInt = m * (c k).toInt) ker ker') :
    weightLane c ker' = 0 ↔ weightLane c ker = 0 := by
  rw [weightLane_eq_zero_iff c hlen, weightLane_eq_zero_iff c (h.length_eq ▸ hlen),
    weightSum_scaled h, mul_eq_zero, or_iff_right hm]

theorem laneQuotient_scaled (hm : m ≠ 0) (hlen : ker.length ≤ 65025)
    (h : List.Forall₂ (fun k k' => (c k').toInt = m * (c k).toInt) ker ker') :
    laneQuotient p c win ker' = laneQuotient p c win ker := by
  rw [← BitVec.toInt_inj, laneQuotient_toInt p c hlen, laneQuotient_toInt p c (h.length_eq ▸ hlen),
    weightSum_scaled h, productSum_scaled p h, tdiv_mul_left hm]

/-! ### Equal weights (R126) -/

variable (c)

theorem weightSum_replicate (n : Nat) (k : Weight) :
    weightSum c (List.replicate n k) = (c k).toInt * n := by
  rw [weightSum, List.map_replicate, List.sum_replicate, nsmul_eq_mul, mul_comm]

theorem weightSum_replicate_ne_zero {n : Nat} {k : Weight} (hn : 1 ≤ n) (hk : c k ≠ 0) :
    weightSum c (List.replicate n k) ≠ 0 := by
  rw [weightSum_replicate]
  exact mul_ne_zero (BitVec.toInt_ne.mpr hk) (Int.natCast_ne_zero.mpr (Nat.ne_of_gt hn))

theorem productSum_replicate (win : List Sample) (k : Weight) :
    productSum p c win (List.replicate win.length k) =
      (c k).toInt * ((win.map fun x => (p x).toNat).sum : Nat) := by
  unfold productSum
  induction win with
  | nil => simp
  | cons x win ih =>
    rw [List.length_cons, List.replicate_succ, List.zip_cons_cons, List.map_cons, List.sum_cons, ih]
    push_cast [List.map_cons, List.sum_cons]
    ring

/-- The quotient is the plain mean. -/
theorem laneQuotient_replicate {k : Weight} (hlen : win.length ≤ 65025) (hk : c k ≠ 0) :
    (laneQuotient p c win (List.replicate win.length k)).toInt =
      ((win.map fun x => (p x).toNat).sum / win.length : Nat) := by
  have hk' : (c k).toInt ≠ 0 := BitVec.toInt_ne.mpr hk
  rw [laneQuotient_toInt p c (by rwa [List.length_replicate]), weightSum_replicate,
    productSum_replicate, tdiv_mul_left hk', Int.ofNat_tdiv]

theorem mean_le (win : List Sample) :
    (win.map fun x => (p x).toNat).sum / win.length ≤ 255 := by
  refine Nat.div_le_of_le_mul ?_
  have := List.sum_le_card_nsmul (win.map fun x => (p x).toNat) 255 fun n hn => by
    obtain ⟨x, -, rfl⟩ := List.mem_map.mp hn
    exact Nat.le_of_lt_succ (p x).isLt
  simpa using this

/-! ### Weights that are not negative (R127) -/

variable {c} {least greatest : Nat}

/-- A weighted sum lies between its least and its greatest sample, times the sum of the weights. -/
theorem productSum_between (hlen : win.length = ker.length) (hker : ∀ k ∈ ker, 0 ≤ (c k).toInt)
    (hwin : ∀ x ∈ win, least ≤ (p x).toNat ∧ (p x).toNat ≤ greatest) :
    least * weightSum c ker ≤ productSum p c win ker ∧
    productSum p c win ker ≤ greatest * weightSum c ker := by
  have hsum : weightSum c ker = ((win.zip ker).map fun x => (c x.2).toInt).sum := by
    conv_lhs => rw [weightSum, ← List.map_snd_zip hlen.ge, List.map_map]
    rfl
  rw [hsum, ← List.sum_map_mul_left, ← List.sum_map_mul_left, productSum]
  constructor <;> refine List.sum_le_sum fun x hx => ?_
  · exact mul_le_mul_of_nonneg_right (Int.ofNat_le.mpr (hwin _ (List.of_mem_zip hx).1).1)
      (hker _ (List.of_mem_zip hx).2)
  · exact mul_le_mul_of_nonneg_right (Int.ofNat_le.mpr (hwin _ (List.of_mem_zip hx).1).2)
      (hker _ (List.of_mem_zip hx).2)

theorem weightSum_nonneg (hker : ∀ k ∈ ker, 0 ≤ (c k).toInt) : 0 ≤ weightSum c ker :=
  List.sum_nonneg fun _ hn => by
    obtain ⟨k, hk, rfl⟩ := List.mem_map.mp hn
    exact hker k hk

theorem laneQuotient_between (hlen : win.length = ker.length) (hmax : ker.length ≤ 65025)
    (hker : ∀ k ∈ ker, 0 ≤ (c k).toInt) (hsum : weightSum c ker ≠ 0)
    (hwin : ∀ x ∈ win, least ≤ (p x).toNat ∧ (p x).toNat ≤ greatest) :
    least ≤ (laneQuotient p c win ker).toInt ∧ (laneQuotient p c win ker).toInt ≤ greatest := by
  have hnonneg := weightSum_nonneg hker
  have hpos : 0 < weightSum c ker := lt_of_le_of_ne hnonneg hsum.symm
  obtain ⟨hlo, hhi⟩ := productSum_between p hlen hker hwin
  have hproducts : 0 ≤ productSum p c win ker :=
    (mul_nonneg (Int.natCast_nonneg _) hnonneg).trans hlo
  rw [laneQuotient_toInt p c hmax, Int.tdiv_eq_ediv_of_nonneg hproducts]
  exact ⟨(Int.le_ediv_iff_mul_le hpos).mpr hlo, Int.ediv_le_of_le_mul hpos hhi⟩

/-- A quotient that is a byte is stored as it is (R130). -/
theorem clamp8_of_byte {v : Int} (h0 : 0 ≤ v) (h255 : v ≤ 255) : ((clamp8 v).toNat : Int) = v := by
  rw [clamp8_toNat, min_eq_right h255, max_eq_right h0]

/-- The quotient lies between the samples' bounds; bytes lie between 0 and 255, so it is a byte and the
clamp keeps it. -/
theorem laneQuotient_in_range (hlen : win.length = ker.length) (hmax : ker.length ≤ 65025)
    (hker : ∀ k ∈ ker, 0 ≤ (c k).toInt) (hsum : weightSum c ker ≠ 0)
    (hwin : ∀ x ∈ win, least ≤ (p x).toNat ∧ (p x).toNat ≤ greatest) :
    least ≤ (laneQuotient p c win ker).toInt ∧ (laneQuotient p c win ker).toInt ≤ greatest ∧
    ((clamp8 (laneQuotient p c win ker).toInt).toNat : Int) = (laneQuotient p c win ker).toInt := by
  obtain ⟨hlo, hhi⟩ := laneQuotient_between p hlen hmax hker hsum hwin
  obtain ⟨h0, h255⟩ := laneQuotient_between (least := 0) (greatest := 255) p hlen hmax hker hsum
    fun x _ => ⟨Nat.zero_le _, Nat.le_of_lt_succ (p x).isLt⟩
  exact ⟨hlo, hhi, clamp8_of_byte h0 h255⟩

/-- The plain mean is stored as it is. -/
theorem clamp8_laneQuotient_replicate {k : Weight} (hlen : win.length ≤ 65025) (hk : c k ≠ 0) :
    (clamp8 (laneQuotient p c win (List.replicate win.length k)).toInt).toNat =
      (win.map fun x => (p x).toNat).sum / win.length := by
  rw [laneQuotient_replicate p c hlen hk]
  exact Int.ofNat_inj.mp
    (clamp8_of_byte (Int.natCast_nonneg _) (Int.ofNat_le.mpr (mean_le p win)))

end

/-! ### The three channels together -/

variable {s : State} {win : List Sample} {ker ker' : List Weight}

theorem ksumOf_toInt (h : ker.length ≤ 65025) :
    (ksumOf ker).r.toInt = weightSum Pixel.r ker ∧ (ksumOf ker).g.toInt = weightSum Pixel.g ker ∧
    (ksumOf ker).b.toInt = weightSum Pixel.b ker := by
  rw [ksumOf_eq]
  exact ⟨weightLane_toInt _ h, weightLane_toInt _ h, weightLane_toInt _ h⟩

theorem asumOf_toInt (h : (win.zip ker).length ≤ 65025) :
    (asumOf win ker).r.toInt = productSum Pixel.r Pixel.r win ker ∧
    (asumOf win ker).g.toInt = productSum Pixel.g Pixel.g win ker ∧
    (asumOf win ker).b.toInt = productSum Pixel.b Pixel.b win ker := by
  rw [asumOf_eq]
  exact ⟨productLane_toInt _ _ h, productLane_toInt _ _ h, productLane_toInt _ _ h⟩

/-- No lane of the kernel sums is 0 exactly when no channel's integer sum is (R121). -/
theorem zeroLanes_ksumOf (h : ker.length ≤ 65025) :
    zeroLanes (ksumOf ker) = 0 ↔
      weightSum Pixel.r ker ≠ 0 ∧ weightSum Pixel.g ker ≠ 0 ∧ weightSum Pixel.b ker ≠ 0 := by
  rw [zeroLanes_eq_zero, ksumOf_eq]
  simp only [ne_eq, weightLane_eq_zero_iff _ h]

/-- `ERR_INFO` of code 3 has one bit for each zero lane (R74, R158). -/
theorem degenerateInfo_toNat (k : Lanes) :
    (degenerateInfo k).toNat =
      (if k.r = 0 then 1 else 0) + (if k.g = 0 then 2 else 0) + (if k.b = 0 then 4 else 0) := by
  rw [degenerateInfo, BitVec.toNat_setWidth_of_le (by decide), zeroLanes]
  simp only [append_toNat, BitVec.toNat_ofBool, beq_eq_decide, Bool.toNat, Bool.cond_decide]
  split_ifs <;> rfl

/-- The zero tests depend only on which lanes are 0. -/
theorem zeroLanes_congr {k k' : Lanes} (hr : k'.r = 0 ↔ k.r = 0) (hg : k'.g = 0 ↔ k.g = 0)
    (hb : k'.b = 0 ↔ k.b = 0) : zeroLanes k' = zeroLanes k := by
  simp only [zeroLanes, beq_eq_decide, hr, hg, hb]

/-- The filter reads of the sums only the zero tests and the quotients (R143). -/
theorem filterPixel_congr {win win' : List Sample}
    (hzero : zeroLanes (ksumOf ker') = zeroLanes (ksumOf ker))
    (hquot : quotOf (asumOf win' ker') (ksumOf ker') = quotOf (asumOf win ker) (ksumOf ker)) :
    filterPixel win' ker' = filterPixel win ker := by
  simp only [filterPixel, degenerateInfo, hzero, hquot]

theorem filterPixel_stored (h : zeroLanes (ksumOf ker) = 0) :
    filterPixel win ker = .stored (outPixel (quotOf (asumOf win ker) (ksumOf ker))) :=
  if_neg (not_not.mpr h)

/-! ### Alphas (R125) -/

theorem ksumOf_alpha (g : Weight → Half) (ker : List Weight) :
    ksumOf (ker.map fun k => { k with a := g k }) = ksumOf ker := by
  rw [ksumOf, List.foldl_map]
  rfl

theorem asumOf_alpha (f : Sample → Byte) (g : Weight → Half) (win : List Sample)
    (ker : List Weight) :
    asumOf (win.map fun x => { x with a := f x }) (ker.map fun k => { k with a := g k }) =
      asumOf win ker := by
  rw [asumOf, List.zip_map, List.foldl_map]
  rfl

/-! ### KSUM, MAC and NORM in a running pass -/

theorem exec_ksum_sums (hb : s.mode = .busy) (h : zeroLanes (ksumOf s.work.ker) = 0) :
    exec .ksum s =
      .next { s with phase := 0b101, work := { s.work with ksum := ksumOf s.work.ker } } := by
  rw [exec, execKsum, whenBusy_of_busy hb, if_neg (not_not.mpr h)]

theorem exec_ksum_degenerate (hb : s.mode = .busy) (h : zeroLanes (ksumOf s.work.ker) ≠ 0) :
    exec .ksum s =
      .next (raiseInPass .degenerateKernel (degenerateInfo (ksumOf s.work.ker)) s) := by
  rw [exec, execKsum, whenBusy_of_busy hb, if_pos h]

theorem exec_mac (hb : s.mode = .busy) :
    exec .mac s = .next { s with
      phase := 0b110, work := { s.work with asum := asumOf s.work.win s.work.ker } } :=
  whenBusy_of_busy hb _

theorem exec_norm (hb : s.mode = .busy) (h : zeroLanes s.work.ksum = 0) :
    exec .norm s = .next { s with
      phase := 0b111, work := { s.work with quot := quotOf s.work.asum s.work.ksum } } := by
  rw [exec, execNorm, whenBusy_of_busy hb, if_neg (not_not.mpr h)]

end Sys2Proof.Machine

open Sys2Proof Sys2Proof.Machine

/-- Settles O23: no lane is 0, and each lane is its channel's exact sum. -/
theorem ksumAddsTheWeights : Obligations.KsumAddsTheWeights := by
  intro s hb hlen hr hg hblue
  obtain ⟨er, eg, eb⟩ := ksumOf_toInt hlen
  exact ⟨_, exec_ksum_sums hb ((zeroLanes_ksumOf hlen).mpr ⟨hr, hg, hblue⟩), er, eg, eb, rfl⟩

/-- Settles O24: a channel's zero sum is a zero lane, whose bit the record has. -/
theorem degenerateKernelIsRejected : Obligations.DegenerateKernelIsRejected := by
  intro s hb hlen hzero
  have hlanes : zeroLanes (ksumOf s.work.ker) ≠ 0 := fun h => by
    obtain ⟨hr, hg, hblue⟩ := (zeroLanes_ksumOf hlen).mp h
    exact hzero.elim hr fun hzero => hzero.elim hg hblue
  refine ⟨_, exec_ksum_degenerate hb hlanes, rfl, rfl, rfl, rfl, rfl, ?_,
    outputByte_raiseInPass _ _ s, rfl⟩
  rw [raiseInPass_errInfo, degenerateInfo_toNat, ksumOf_eq]
  simp only [weightLane_eq_zero_iff _ hlen]
  rfl

/-- Settles O25: each lane is its channel's exact sum of products. -/
theorem macAddsTheProducts : Obligations.MacAddsTheProducts := by
  intro s hb hlen
  obtain ⟨er, eg, eb⟩ := asumOf_toInt hlen
  exact ⟨_, exec_mac hb, er, eg, eb, rfl⟩

/-- Settles O26: exact, so within the bounds of the integer sums. -/
theorem accumulatorsNeverOverflow : Obligations.AccumulatorsNeverOverflow := by
  intro win ker hlen
  have hzip := length_zip_le win hlen
  obtain ⟨kr, kg, kb⟩ := ksumOf_toInt hlen
  obtain ⟨ar, ag, ab⟩ := asumOf_toInt hzip
  exact ⟨kr, kg, kb, kr ▸ weightSum_abs_le _ hlen, kg ▸ weightSum_abs_le _ hlen,
    kb ▸ weightSum_abs_le _ hlen, by decide, ar, ag, ab, ar ▸ productSum_abs_le _ _ hzip,
    ag ▸ productSum_abs_le _ _ hzip, ab ▸ productSum_abs_le _ _ hzip, by decide⟩

/-- Settles O27: each lane's quotient fits its register. -/
theorem normDividesTowardZero : Obligations.NormDividesTowardZero := by
  intro s hb kr kg kb ar ag ab
  exact ⟨_, exec_norm hb ((zeroLanes_eq_zero _).mpr ⟨kr, kg, kb⟩), quotient_toInt _ _ ar,
    quotient_toInt _ _ ag, quotient_toInt _ _ ab, rfl⟩

/-- Settles O28: a step of either sum reads the colour channels only. -/
theorem alphaIsNotWeighted : Obligations.AlphaIsNotWeighted := by
  intro win ker f g q
  have hk := ksumOf_alpha g ker
  have ha := asumOf_alpha f g win ker
  exact ⟨hk, ha, filterPixel_congr (congrArg zeroLanes hk) (congrArg₂ quotOf ha hk), rfl⟩

/-- Settles O29: a channel's factor drops out of its zero test and of its quotient. -/
theorem scalingTheKernelChangesNothing : Obligations.ScalingTheKernelChangesNothing := by
  intro win ker ker' cr cg cb hcr hcg hcb hlen h
  have hr := h.imp fun _ _ ⟨hk, _, _⟩ => hk
  have hg := h.imp fun _ _ ⟨_, hk, _⟩ => hk
  have hb := h.imp fun _ _ ⟨_, _, hk⟩ => hk
  apply filterPixel_congr
  · rw [ksumOf_eq, ksumOf_eq]
    exact zeroLanes_congr (weightLane_scaled_eq_zero_iff hcr hlen hr)
      (weightLane_scaled_eq_zero_iff hcg hlen hg) (weightLane_scaled_eq_zero_iff hcb hlen hb)
  · rw [quotOf_sums, quotOf_sums, laneQuotient_scaled _ hcr hlen hr,
      laneQuotient_scaled _ hcg hlen hg, laneQuotient_scaled _ hcb hlen hb]

/-- Settles O30: the weight drops out of the quotient, and the mean of bytes is a byte. -/
theorem equalWeightsGiveTheMean : Obligations.EqualWeightsGiveTheMean := by
  intro win w a h1 hlen hw
  have hzero := (zeroLanes_ksumOf (by rwa [List.length_replicate])).mpr
    ⟨weightSum_replicate_ne_zero Pixel.r (k := ⟨w, w, w, a⟩) h1 hw,
      weightSum_replicate_ne_zero Pixel.g h1 hw, weightSum_replicate_ne_zero Pixel.b h1 hw⟩
  refine ⟨_, filterPixel_stored hzero, ?_⟩
  rw [quotOf_sums]
  exact ⟨clamp8_laneQuotient_replicate _ hlen hw, clamp8_laneQuotient_replicate _ hlen hw,
    clamp8_laneQuotient_replicate _ hlen hw, rfl⟩

/-- Settles O31: channel by channel, the quotient is a weighted mean. -/
theorem nonNegativeWeightsStayInRange : Obligations.NonNegativeWeightsStayInRange := by
  intro win ker q least greatest hlen hmax hq
  obtain rfl := hq.trans (quotOf_sums win ker)
  exact ⟨laneQuotient_in_range _ hlen hmax, laneQuotient_in_range _ hlen hmax,
    laneQuotient_in_range _ hlen hmax⟩

end

section
/-! The output writer (44_output_writer.md): what `WRITE` stores and where, and truncation against
floor under the clamp. -/

namespace Sys2Proof.Machine

/-! ### The store of a pixel (R131) -/

/-- The four bytes at the offset, lowest address first. -/
theorem storePixel_bytes (m : List Host.Cell) (off : Nat) (p : Sample) :
    Memory.get (storePixel m off p) off = some p.r ∧
    Memory.get (storePixel m off p) (off + 1) = some p.g ∧
    Memory.get (storePixel m off p) (off + 2) = some p.b ∧
    Memory.get (storePixel m off p) (off + 3) = some p.a := by
  simp [storePixel_get]

theorem storePixel_get_outside (m : List Host.Cell) {off : Nat} (p : Sample) {a : Nat}
    (h : a < off ∨ off + 4 ≤ a) : Memory.get (storePixel m off p) a = Memory.get m a := by
  rw [storePixel_get, if_neg (by omega), if_neg (by omega), if_neg (by omega), if_neg (by omega)]

/-! ### WRITE in a running pass (R130, R144, R145) -/

variable {s : State}

/-- The end of a coordinate stores nothing and changes no register of the host or port. -/
theorem advance_frame (s : State) :
    advance s = { s with
      mode := (advance s).mode
      phase := (advance s).phase
      work := (advance s).work
      omemValid := (advance s).omemValid
      fresh := (advance s).fresh } := by
  obtain ⟨x, y, -, e⟩ | ⟨-, e⟩ := advance_cases s
  · rw [e]
  · rw [e]
    rfl

@[simp] theorem advance_omem (s : State) : (advance s).omem = s.omem := by
  rw [advance_frame]

theorem exec_write_inside (hb : s.mode = .busy) (hx : s.work.curX.toNat < s.work.latW.toNat)
    (hy : s.work.curY.toNat < s.work.latH.toNat) :
    exec .write s = .next (advance { s with
      omem := storePixel s.omem ((s.work.curY.toNat * s.work.latW.toNat + s.work.curX.toNat) * 4)
        (outPixel s.work.quot) }) := by
  rw [exec, execWrite, whenBusy_of_busy hb, offset_inside hx hy]

/-! ### Truncation and floor (R6, R132) -/

theorem clamp8_of_nonpos {v : Int} (h : v ≤ 0) : clamp8 v = 0 := by
  rw [clamp8, max_eq_left (min_le_of_right_le h)]
  rfl

variable {a b : Int}

theorem tdiv_eq_floor_of_nonneg (ha : 0 ≤ a) (hb : 0 ≤ b) : tdiv a b = ⌊(a : ℚ) / b⌋ := by
  lift b to ℕ using hb
  rw [tdiv, Int.tdiv_eq_ediv_of_nonneg ha]
  exact (Rat.floor_intCast_div_natCast a b).symm

/-- Of a quotient that is not negative both signs agree; changing both changes nothing. -/
theorem tdiv_eq_floor (h : 0 ≤ (a : ℚ) / b) : tdiv a b = ⌊(a : ℚ) / b⌋ := by
  obtain ⟨ha, hb⟩ | ⟨ha, hb⟩ := div_nonneg_iff.mp h
  · exact tdiv_eq_floor_of_nonneg (Int.cast_nonneg_iff.mp ha) (Int.cast_nonneg_iff.mp hb)
  · have hneg := tdiv_eq_floor_of_nonneg (neg_nonneg.mpr (Int.cast_nonpos.mp ha))
      (neg_nonneg.mpr (Int.cast_nonpos.mp hb))
    rwa [tdiv, Int.neg_tdiv_neg, Int.cast_neg, Int.cast_neg, neg_div_neg_eq] at hneg

/-- Below 0 it is the floor of the opposite, with its sign changed back. -/
theorem tdiv_eq_ceil (h : (a : ℚ) / b ≤ 0) : tdiv a b = ⌈(a : ℚ) / b⌉ := by
  have hneg : tdiv (-a) b = ⌊((-a : Int) : ℚ) / b⌋ := tdiv_eq_floor (by
    rwa [Int.cast_neg, neg_div, neg_nonneg])
  rw [tdiv, Int.neg_tdiv, Int.cast_neg, neg_div, Int.floor_neg] at hneg
  exact neg_inj.mp hneg

end Sys2Proof.Machine

open Sys2Proof Sys2Proof.Machine

/-- Settles O32: the store at the coordinate's offset, which the end of the coordinate keeps. -/
theorem writeStoresOnePixel : Obligations.WriteStoresOnePixel := by
  intro s hb hx hy
  refine ⟨_, _, exec_write_inside hb hx hy, offset_inside hx hy, ?_⟩
  rw [advance_omem]
  obtain ⟨hr, hg, hblue, halpha⟩ := storePixel_bytes s.omem
    ((s.work.curY.toNat * s.work.latW.toNat + s.work.curX.toNat) * 4) (outPixel s.work.quot)
  exact ⟨⟨_, hr, clamp8_toNat _⟩, ⟨_, hg, clamp8_toNat _⟩, ⟨_, hblue, clamp8_toNat _⟩, halpha,
    fun _ => storePixel_get_outside s.omem _, advance_frame _⟩

/-- Settles O34: they differ only below 0, where neither is above 0. -/
theorem floorAndTruncationStoreTheSame : Obligations.FloorAndTruncationStoreTheSame := by
  intro v
  by_cases h : 0 ≤ v
  · rw [if_pos h]
    refine ⟨rfl, fun hne => absurd rfl hne, ?_⟩
    rintro a b - rfl
    exact tdiv_eq_floor h
  · rw [if_neg h]
    have hv : v < 0 := not_le.mp h
    have hfloor : clamp8 ⌊v⌋ = 0 := clamp8_of_nonpos (Int.floor_nonpos hv.le)
    have hceil : clamp8 ⌈v⌉ = 0 := clamp8_of_nonpos (Int.ceil_nonpos.mpr hv.le)
    refine ⟨hfloor.trans hceil.symm, fun _ => ⟨hv, hfloor, hceil⟩, ?_⟩
    rintro a b - rfl
    exact tdiv_eq_ceil hv.le

end

section
/-! The host commands and the scan (45_sequencer_commands.md): what a command word does by its decoding,
what `CONVOLVE` checks, where `WRITE` leaves the scan, and the transitions of the engine state. -/

namespace Sys2Proof.Machine

variable {s t : State} {later : List Event} {w : RegWord}

/-! ### Command words (R137 to R142) -/

/-- The words of an operation are those of its encoding: the decoder and the encoder invert each
other. -/
theorem decode_cmd_eq_ok_iff (w : RegWord) (i : Instr) :
    decode (.cmd w) = .ok i ↔ encode i = .cmd w :=
  ⟨encode_of_decodeCmd, fun h => h ▸ decodeInvertsEncode i (by cases i <;> rfl)⟩

theorem decode_cmd_nop_iff (w : RegWord) : decode (.cmd w) = .ok .nop ↔ w = 0x00000000 := by
  rw [decode_cmd_eq_ok_iff, encode, Code.cmd.injEq, eq_comm]

theorem decode_cmd_ack_iff (w : RegWord) : decode (.cmd w) = .ok .ack ↔ w = 0x00000002 := by
  rw [decode_cmd_eq_ok_iff, encode, Code.cmd.injEq, eq_comm]

/-- A word is one of the three commands, or illegal. -/
theorem decode_cmd_cases (w : RegWord) :
    decode (.cmd w) = .ok .nop ∨ decode (.cmd w) = .ok .ack ∨
    (∃ tag k v z, decode (.cmd w) = .ok (.convolve tag k v z)) ∨
    decode (.cmd w) = .reject .illegalCommand := by
  obtain ⟨-, e⟩ | ⟨-, e⟩ | ⟨-, e⟩ | ⟨-, -, -, e⟩ := decodeCmd_cases w
  · exact .inl e
  · exact .inr (.inr (.inl ⟨_, _, _, _, e⟩))
  · exact .inr (.inl e)
  · exact .inr (.inr (.inr e))

/-- A host write to `CMD` is the turn of its word. -/
theorem step_command (h : s.inbox = .regWrite 0x00 w :: later) :
    step s = (commandTurn w { s with inbox := later }).answer :=
  step_cons h

theorem commandTurn_of_busy (hb : s.mode = .busy) : commandTurn w s = .settle (.next s) :=
  if_pos hb

theorem commandTurn_of_reject {why : Reject} (hb : s.mode ≠ .busy)
    (hd : decode (.cmd w) = .reject why) :
    commandTurn w s = .settle (.next (illegalCommand s)) := by
  simp [commandTurn, hb, hd]

theorem step_command_ok {i : Instr} (h : s.inbox = .regWrite 0x00 w :: later)
    (hb : s.mode ≠ .busy) (hd : decode (.cmd w) = .ok i) :
    step s = exec i { s with inbox := later } :=
  (step_command h).trans (congrArg Plan.answer
    (commandTurn_of_ok (s := { s with inbox := later }) hb hd))

theorem step_command_dropped (h : s.inbox = .regWrite 0x00 w :: later) (hb : s.mode = .busy) :
    step s = .next { s with inbox := later } :=
  (step_command h).trans (congrArg Plan.answer
    (commandTurn_of_busy (s := { s with inbox := later }) hb))

theorem step_command_illegal {why : Reject} (h : s.inbox = .regWrite 0x00 w :: later)
    (hb : s.mode ≠ .busy) (hd : decode (.cmd w) = .reject why) :
    step s = .next (illegalCommand { s with inbox := later }) :=
  (step_command h).trans (congrArg Plan.answer
    (commandTurn_of_reject (s := { s with inbox := later }) hb hd))

/-! ### ACK (R139) -/

theorem exec_ack_cleared (h : s.mode = .done ∨ s.mode = .error) :
    exec .ack s = .next (clearRecord s) := by
  obtain h | h := h <;> rw [exec, execAck, h]

theorem exec_ack_ignored (h : s.mode = .idle ∨ s.mode = .busy) : exec .ack s = .next s := by
  obtain h | h := h <;> rw [exec, execAck, h]

/-- `ACK` ends in `IDLE`, from every state in which it is not dropped. -/
theorem exec_ack_idle (hb : s.mode ≠ .busy) (he : exec .ack s = .next t) : t.mode = .idle := by
  cases hm : s.mode with
  | idle =>
    cases (exec_ack_ignored (.inl hm)).symm.trans he
    exact hm
  | busy => exact absurd hm hb
  | done =>
    cases (exec_ack_cleared (.inl hm)).symm.trans he
    rfl
  | error =>
    cases (exec_ack_cleared (.inr hm)).symm.trans he
    rfl

/-- No command's meaning changes a running pass (R141). -/
theorem exec_command_of_busy {i : Instr} (hi : i.format = .cmd) (hb : s.mode = .busy) :
    exec i s = .next s := by
  cases i with
  | nop => rfl
  | convolve => exact if_pos hb
  | ack => exact exec_ack_ignored (.inr hb)
  | _ => cases hi

/-! ### CONVOLVE (R138, R105) -/

section
variable {tag : BitVec 4} {k : KernelSource} {v : Bool} {z : BitVec 8}

/-- The source is checked before the size (R156). -/
theorem acceptPass_of_invalid_source (h : 2 ≤ tag.toNat ∨ s.imgW = 0 ∨ s.imgH = 0) :
    acceptPass tag k v z s =
      raise .invalidSource 0 0 (sourceInfo tag (s.imgW == 0) (s.imgH == 0)) s :=
  if_pos h

theorem acceptPass_of_valid (htag : tag.toNat ≤ 1) (hW : s.imgW ≠ 0) (hH : s.imgH ≠ 0)
    (hsize : resolveSize k v z s ≠ 0) :
    acceptPass tag k v z s = startPass k (resolveSize k v z s) s := by
  rw [acceptPass, if_neg (not_or.mpr ⟨not_lt.mpr htag, not_or.mpr ⟨hW, hH⟩⟩), if_neg hsize]

/-- The checks of `CONVOLVE`: the source is invalid, or it is valid and the size decides. -/
theorem convolve_checks (tag : BitVec 4) (k : KernelSource) (v : Bool) (z : BitVec 8) (s : State) :
    (2 ≤ tag.toNat ∨ s.imgW = 0 ∨ s.imgH = 0) ∨
    tag.toNat ≤ 1 ∧ s.imgW ≠ 0 ∧ s.imgH ≠ 0 ∧
      (resolveSize k v z s = 0 ∨ resolveSize k v z s ≠ 0) := by
  by_cases hsource : 2 ≤ tag.toNat ∨ s.imgW = 0 ∨ s.imgH = 0
  · exact .inl hsource
  · obtain ⟨htag, hW, hH⟩ := by simpa only [not_or] using hsource
    exact .inr ⟨Nat.lt_succ_iff.mp (not_le.mp htag), hW, hH, Classical.em _⟩

/-- A pass starts exactly when every check passes. -/
theorem acceptPass_mode (tag : BitVec 4) (k : KernelSource) (v : Bool) (z : BitVec 8) (s : State) :
    (acceptPass tag k v z s).mode =
      if tag.toNat ≤ 1 ∧ s.imgW ≠ 0 ∧ s.imgH ≠ 0 ∧ resolveSize k v z s ≠ 0 then .busy
      else .error := by
  obtain hsource | ⟨htag, hW, hH, hsize | hsize⟩ := convolve_checks tag k v z s
  · rw [acceptPass_of_invalid_source hsource, if_neg (by grind), raise_mode]
  · rw [acceptPass_of_size_zero htag hW hH hsize, if_neg (by simp [hsize]), raise_mode]
  · rw [acceptPass_of_valid htag hW hH hsize, if_pos ⟨htag, hW, hH, hsize⟩, startPass_mode]

/-- The working registers have no part in the checks: an error is the same whatever they hold, and so is
the size a pass starts with. -/
theorem acceptPass_with_work (tag : BitVec 4) (k : KernelSource) (v : Bool) (z : BitVec 8)
    (s : State) (w : Work) :
    acceptPass tag k v z { s with work := w } = acceptPass tag k v z s ∨
    ∃ size, acceptPass tag k v z s = startPass k size s ∧
      acceptPass tag k v z { s with work := w } = startPass k size { s with work := w } := by
  obtain hsource | ⟨htag, hW, hH, hsize | hsize⟩ := convolve_checks tag k v z s
  · rw [acceptPass_of_invalid_source hsource,
      acceptPass_of_invalid_source (s := { s with work := w }) hsource]
    exact .inl rfl
  · rw [acceptPass_of_size_zero htag hW hH hsize,
      acceptPass_of_size_zero (s := { s with work := w }) htag hW hH hsize]
    exact .inl rfl
  · exact .inr ⟨_, acceptPass_of_valid htag hW hH hsize,
      acceptPass_of_valid (s := { s with work := w }) htag hW hH hsize⟩

theorem exec_convolve (hb : s.mode ≠ .busy) :
    exec (.convolve tag k v z) s =
      .next (acceptPass tag k v z (dropOutput (clearRecord s))) :=
  if_neg hb

theorem halfOfSize_toNat (size : BitVec 8) : (halfOfSize size).toNat = size.toNat / 2 := by
  rw [halfOfSize, BitVec.extractLsb'_toNat, Nat.shiftRight_eq_div_pow]
  omega

end

/-! ### The end of WRITE (R144, R145) -/

theorem advance_of_next {x y : Nat} (h : nextPos s.work.latW.toNat s.work.latH.toNat
    s.work.curX.toNat s.work.curY.toNat = some (x, y)) :
    advance s = { s with
      phase := 0b001
      work := { s.work with curX := BitVec.ofNat 16 x, curY := BitVec.ofNat 16 y } } := by
  rw [advance, h]

theorem advance_of_last (h : nextPos s.work.latW.toNat s.work.latH.toNat
    s.work.curX.toNat s.work.curY.toNat = none) : advance s = complete s := by
  rw [advance, h]

section
variable {W H x y : Nat}

theorem nextPos_in_row (hx : x + 1 < W) : nextPos W H x y = some (x + 1, y) := if_pos hx

theorem nextPos_row_end (hx : x + 1 = W) (hy : y + 1 < H) : nextPos W H x y = some (0, y + 1) := by
  rw [nextPos, if_neg (by omega), if_pos hy]

theorem nextPos_last (hx : x + 1 = W) (hy : y + 1 = H) : nextPos W H x y = none := by
  rw [nextPos, if_neg (by omega), if_neg (by omega)]

theorem offset_some_inside {off : Nat} (h : offset W H x y = some off) : x < W ∧ y < H := by
  by_contra hout
  cases (offset_outside hout).symm.trans h

end

/-! ### How a pass ends (R150) -/

/-- What ends a pass in `t`, from a state at phase `p` whose working registers are `w`: the last `WRITE`,
or an error at the coordinate that the phase can raise. -/
def PassEndsIn (p : BitVec 3) (w : Work) (t : State) : Prop :=
  t.mode = .done ∧ p = 0b111 ∧ w.curX.toNat + 1 = w.latW.toNat ∧
      w.curY.toNat + 1 = w.latH.toNat ∨
    t.mode = .error ∧ t.errX = w.curX ∧ t.errY = w.curY ∧
      (p = 0b011 ∧ (t.errCode = .kernelShape ∨ t.errCode = .configuration) ∨
        (p = 0b100 ∨ p = 0b110) ∧ t.errCode = .degenerateKernel)

theorem execCollect_keeps_busy (hb : s.mode = .busy) (he : execCollect s = .next t) :
    t.mode = .busy := by
  rw [execCollect, whenBusy_of_busy hb] at he
  split at he <;> cases he
  exact hb

theorem execKresolve_keeps_busy (hb : s.mode = .busy) (he : execKresolve s = .next t) :
    t.mode = .busy := by
  rw [execKresolve, whenBusy_of_busy hb] at he
  split at he <;> cases he
  · exact hb
  · obtain ⟨e, -⟩ | ⟨_, _, _, _, -, -, e⟩ := receiveRecord_cases (sendArea s) <;> rw [e]
    · exact (sendArea_mode s).trans hb
    · exact (sendArea_mode s).trans hb

theorem execKcheck_ends (hb : s.mode = .busy) (he : execKcheck s = .next t) :
    t.mode = .busy ∨ PassEndsIn 0b011 s.work t := by
  rw [execKcheck, whenBusy_of_busy hb] at he
  split_ifs at he <;> cases he
  · exact .inr (.inr ⟨rfl, rfl, rfl, .inl ⟨rfl, .inl rfl⟩⟩)
  · exact .inl hb

theorem execKsum_ends (hb : s.mode = .busy) (he : execKsum s = .next t) :
    t.mode = .busy ∨ PassEndsIn 0b100 s.work t := by
  rw [execKsum, whenBusy_of_busy hb] at he
  split_ifs at he <;> cases he
  · exact .inr (.inr ⟨rfl, rfl, rfl, .inr ⟨.inl rfl, rfl⟩⟩)
  · exact .inl hb

theorem execMac_keeps_busy (hb : s.mode = .busy) (he : execMac s = .next t) : t.mode = .busy := by
  rw [execMac, whenBusy_of_busy hb] at he
  cases he
  exact hb

/-- `NORM` raises at a zero divisor, which no run reaches (U2; log 12). -/
theorem execNorm_ends (hb : s.mode = .busy) (he : execNorm s = .next t) :
    t.mode = .busy ∨ PassEndsIn 0b110 s.work t := by
  rw [execNorm, whenBusy_of_busy hb] at he
  split_ifs at he <;> cases he
  · exact .inr (.inr ⟨rfl, rfl, rfl, .inr ⟨.inr rfl, rfl⟩⟩)
  · exact .inl hb

theorem execWrite_ends (hb : s.mode = .busy) (he : execWrite s = .next t) :
    t.mode = .busy ∨ PassEndsIn 0b111 s.work t := by
  rw [execWrite, whenBusy_of_busy hb] at he
  split at he <;> cases he
  obtain ⟨hx, hy⟩ := offset_some_inside ‹_›
  obtain ⟨x, y, -, e⟩ | ⟨hnone, e⟩ := advance_cases { s with
    omem := storePixel s.omem _ (outPixel s.work.quot) }
  · rw [e]
    exact .inl hb
  · obtain ⟨x', y', hsome, -⟩ | ⟨-, hlastX, hlastY⟩ := nextPos_spec hx hy
    · cases hnone.symm.trans hsome
    · rw [e]
      exact .inr (.inl ⟨rfl, rfl, hlastX, hlastY⟩)

/-- The operation of a phase leaves the pass running, or ends it. -/
theorem exec_phase_ends (hb : s.mode = .busy) (he : exec (decodeSeq s.phase) s = .next t) :
    t.mode = .busy ∨ PassEndsIn s.phase s.work t := by
  obtain hp | hp | hp | hp | hp | hp | hp | hp := phase_cases s.phase <;> rw [hp] at he ⊢
  · cases he
    exact .inl hb
  · exact .inl (execCollect_keeps_busy hb he)
  · exact .inl (execKresolve_keeps_busy hb he)
  · exact execKcheck_ends hb he
  · exact execKsum_ends hb he
  · exact .inl (execMac_keeps_busy hb he)
  · exact execNorm_ends hb he
  · exact execWrite_ends hb he

/-- A move changes the engine state only by a command word, by reset, or where a pass ends. -/
theorem Move.mode_cases (m : Move s t) :
    t.mode = s.mode ∨ (∃ w later, s.inbox = .regWrite 0x00 w :: later) ∨
    (∃ later, s.inbox = .reset :: later) ∨
    ((s.inbox = [] ∨ ∃ later, s.inbox = .engine :: later) ∧ s.mode = .busy ∧
      PassEndsIn s.phase s.work t) := by
  have engineMoves {later : List Event} (turn : EngineNext s later) :
      s.inbox = [] ∨ ∃ later, s.inbox = .engine :: later :=
    turn.elim (fun h => .inr ⟨later, h⟩) fun h => .inl h.1
  cases m with
  | access => exact .inl rfl
  | reset later event => exact .inr (.inr (.inl ⟨later, event⟩))
  | command later event | illegal later event => exact .inr (.inl ⟨_, later, event⟩)
  | operation later turn busy _ performed =>
    obtain running | ends := exec_phase_ends (s := { s with inbox := later }) busy performed
    · exact .inl (running.trans busy.symm)
    · exact .inr (.inr (.inr ⟨engineMoves turn, busy, ends⟩))
  | cell => exact .inl (putCell_mode _ _)
  | badCell later turn busy ha =>
    exact .inr (.inr (.inr ⟨engineMoves turn, busy,
      .inr ⟨rfl, rfl, rfl, .inl ⟨(atCell_iff.mp ha).1, .inr rfl⟩⟩⟩))

end Sys2Proof.Machine

open Sys2Proof Sys2Proof.Machine

/-- Settles O33: by the three cases of the next position. -/
theorem writeAdvancesOrCompletes : Obligations.WriteAdvancesOrCompletes := by
  intro s hb hx hy
  obtain ⟨omem, he⟩ : ∃ omem, exec .write s = .next (advance { s with omem := omem }) :=
    ⟨_, exec_write_inside hb hx hy⟩
  refine ⟨_, he, fun hrow => ?_, fun hend hcol => ?_, fun hend hlast => ?_⟩
  · rw [advance_of_next (s := { s with omem := omem }) (nextPos_in_row hrow)]
    exact ⟨hb, rfl, rfl, toNat_ofNat_of_lt (hrow.trans s.work.latW.isLt), by simp⟩
  · rw [advance_of_next (s := { s with omem := omem }) (nextPos_row_end hend hcol)]
    exact ⟨hb, rfl, rfl, toNat_ofNat_of_lt (hcol.trans s.work.latH.isLt), rfl⟩
  · rw [advance_of_last (s := { s with omem := omem }) (nextPos_last hend hlast)]
    exact ⟨rfl, rfl, rfl, rfl, rfl, rfl, rfl⟩

/-- Settles O55: a command word by its decoding, every other change by the moves of a step. -/
theorem stateTransitionsAreComplete : Obligations.StateTransitionsAreComplete := by
  intro s t hstep
  refine ⟨fun w later hin => ⟨fun hb => ?_, fun hb => ⟨fun hd => ?_, fun hd => ?_,
    fun tag k v z hd => ?_, fun hd => ?_, decode_cmd_cases w⟩⟩, fun later hin => ?_, fun hne => ?_⟩
  · cases (step_command_dropped hin hb).symm.trans hstep
    exact hb
  · cases (step_command_ok hin hb hd).symm.trans hstep
    rfl
  · exact exec_ack_idle (s := { s with inbox := later }) hb
      ((step_command_ok hin hb hd).symm.trans hstep)
  · have he := (step_command_ok hin hb hd).symm.trans hstep
    cases (exec_convolve (s := { s with inbox := later }) hb).symm.trans he
    rw [acceptPass_mode]
    cases v <;> cases k <;> rfl
  · cases (step_command_illegal hin hb hd).symm.trans hstep
    rfl
  · cases (step_cons hin).symm.trans hstep
    rfl
  · exact (move_of_step hstep).mode_cases.resolve_left hne.symm

/-- Settles O35: neither has an effect, and the word is `NOP`'s encoding. -/
theorem nopAndIdleChangeNothing : Obligations.NopAndIdleChangeNothing :=
  ⟨fun _ => ⟨rfl, rfl⟩, decode_cmd_nop_iff⟩

/-- Settles O36: every check passes, so the pass starts. -/
theorem convolveStartsThePass : Obligations.ConvolveStartsThePass := by
  intro s tag k v z size hb htag hW hH hresolve hsize
  obtain rfl : resolveSize k v z s = size := by
    rw [hresolve]
    cases v <;> cases k <;> rfl
  refine ⟨_, (exec_convolve hb).trans (congrArg _
    (acceptPass_of_valid (s := dropOutput (clearRecord s)) htag hW hH hsize)), ?_, rfl⟩
  exact halfOfSize_toNat _

/-- Settles O37: the source is checked first, and its `ERR_INFO` has a bit for each cause. -/
theorem convolveRejectsAnInvalidSource : Obligations.ConvolveRejectsAnInvalidSource := by
  intro s tag k v z hb hsource
  refine ⟨_, (exec_convolve hb).trans (congrArg _
    (acceptPass_of_invalid_source (s := dropOutput (clearRecord s)) hsource)),
    rfl, rfl, rfl, rfl, rfl, ?_, fun _ => if_neg Bool.false_ne_true, rfl⟩
  rw [raise_errInfo, sourceInfo_toNat]
  simp

/-- Settles O39: what `CONVOLVE` discards first leaves the same state but for the working registers. -/
theorem convolveForgetsTheLastCall : Obligations.ConvolveForgetsTheLastCall := by
  intro s tag k v z m e x y info om ov w hb hm
  refine ⟨_, acceptPass tag k v z { dropOutput (clearRecord s) with work := w },
    exec_convolve hb, exec_convolve hm, ?_⟩
  obtain same | ⟨size, hs, hw⟩ :=
    acceptPass_with_work tag k v z (dropOutput (clearRecord s)) w
  · rw [same]
    exact ⟨rfl, fun _ => ⟨rfl, rfl, rfl, rfl, rfl, rfl, rfl⟩⟩
  · rw [hs, hw]
    exact ⟨rfl, fun _ => ⟨rfl, rfl, rfl, rfl, rfl, rfl, rfl⟩⟩

/-- Settles O40: by the four modes. -/
theorem ackClearsTheRecord : Obligations.AckClearsTheRecord :=
  fun _ w => ⟨exec_ack_cleared, exec_ack_ignored, decode_cmd_ack_iff w⟩

/-- Settles O41: the turn of the word is over before it is decoded. -/
theorem commandsWhileBusyAreDropped : Obligations.CommandsWhileBusyAreDropped :=
  fun _ _ _ _ hb => ⟨fun hin => step_command_dropped hin hb, fun hi => exec_command_of_busy hi hb⟩

/-- Settles O42: the word's turn is the error of an illegal command. -/
theorem illegalWordRaises : Obligations.IllegalWordRaises :=
  fun _ _ _ hb hin hd => ⟨_, step_command_illegal hin hb hd, rfl, rfl, rfl, rfl, rfl, rfl, rfl,
    rfl, rfl⟩

end

section
/-! One coordinate of a pass in big-step form (45_sequencer_commands.md R143): its run, operation by
operation from the last to the first, is `ConvPixel`. -/

namespace Sys2Proof.Machine

variable {s t : State} {P Q : State → Prop} {b b' n : Nat}

/-! ### Runs that come to a state -/

/-- Within `b` steps a run from `s` comes to a state with `P`. -/
def ComesTo (b : Nat) (P : State → Prop) (s : State) : Prop :=
  ∃ n t, n ≤ b ∧ run n s = .next t ∧ P t

theorem run_succ_next (h : run (n + 1) s = .next t) :
    ∃ u, step s = .next u ∧ run n u = .next t := by
  rw [run] at h
  split at h
  · exact ⟨_, ‹_›, h⟩
  · cases h
  · cases h

theorem run_add {m : Nat} (h : run m s = .next t) (n : Nat) : run (m + n) s = run n t := by
  induction m generalizing s with
  | zero =>
    cases h
    rw [Nat.zero_add]
  | succ m ih =>
    obtain ⟨u, hstep, hrest⟩ := run_succ_next h
    rw [Nat.add_right_comm, run_succ_of_step hstep, ih hrest]

theorem ComesTo.now (h : P s) : ComesTo b P s := ⟨0, s, b.zero_le, rfl, h⟩

theorem ComesTo.after_run {m : Nat} (hrun : run m s = .next t) (h : ComesTo b P t) :
    ComesTo (m + b) P s := by
  obtain ⟨n, u, hn, hrest, hP⟩ := h
  exact ⟨m + n, u, Nat.add_le_add_left hn m, (run_add hrun n).trans hrest, hP⟩

theorem ComesTo.after_step (hstep : step s = .next t) (h : ComesTo b P t) :
    ComesTo (b + 1) P s := by
  rw [Nat.add_comm]
  exact h.after_run (run_succ_of_step hstep)

/-- One run after another. -/
theorem ComesTo.then (h : ComesTo b P s) (hrest : ∀ t, P t → ComesTo b' Q t) :
    ComesTo (b + b') Q s := by
  obtain ⟨m, t, hm, hrun, hP⟩ := h
  obtain ⟨n, u, hn, hrest, hQ⟩ := (hrest t hP).after_run hrun
  exact ⟨n, u, hn.trans (Nat.add_le_add_right hm b'), hrest, hQ⟩

theorem ComesTo.weaken (h : ComesTo b P s) (hb : b ≤ b') (hP : ∀ t, P t → Q t) :
    ComesTo b' Q s := by
  obtain ⟨n, t, hn, hrun, ht⟩ := h
  exact ⟨n, t, hn.trans hb, hrun, hP t ht⟩

/-- A run keeps the invariant, since every step does. -/
theorem run_inv (h : s.Inv) (hrun : run n s = .next t) : t.Inv := by
  induction n generalizing s with
  | zero =>
    cases hrun
    exact h
  | succ n ih =>
    obtain ⟨u, hstep, hrest⟩ := run_succ_next hrun
    exact ih (everyStepKeepsTheInvariant s u h hstep) hrest

theorem ComesTo.with_inv (h : ComesTo b P s) (inv : s.Inv) :
    ComesTo b (fun t => t.Inv ∧ P t) s := by
  obtain ⟨n, t, hn, hrun, hP⟩ := h
  exact ⟨n, t, hn, hrun, run_inv inv hrun, hP⟩

/-! ### One place of a pass -/

/-- The registers that stay over a coordinate: the latched configuration and the scan position (R18,
R20). -/
structure SamePlace (w w' : Work) : Prop where
  curX : w'.curX = w.curX
  curY : w'.curY = w.curY
  latW : w'.latW = w.latW
  latH : w'.latH = w.latH
  latHalf : w'.latHalf = w.latHalf
  latKsrc : w'.latKsrc = w.latKsrc

theorem SamePlace.update {w : Work} {left right top bottom : BitVec 16}
    {rows cols krows kcols : BitVec 8} {win : List Sample} {krec : List Half} {ker : List Weight}
    {decoding : Bool} {ksum asum quot : Lanes} :
    SamePlace w { w with
      left := left, right := right, top := top, bottom := bottom, rows := rows, cols := cols
      krows := krows, kcols := kcols, win := win, krec := krec, ker := ker, decoding := decoding
      ksum := ksum, asum := asum, quot := quot } :=
  ⟨rfl, rfl, rfl, rfl, rfl, rfl⟩

theorem SamePlace.trans {w w' w'' : Work} (h : SamePlace w w') (h' : SamePlace w' w'') :
    SamePlace w w'' :=
  ⟨h'.curX.trans h.curX, h'.curY.trans h.curY, h'.latW.trans h.latW, h'.latH.trans h.latH,
    h'.latHalf.trans h.latHalf, h'.latKsrc.trans h.latKsrc⟩

theorem SamePlace.pixelsBefore_eq {w w' : Work} (h : SamePlace w w') :
    pixelsBefore w' = pixelsBefore w := by
  simp only [pixelsBefore, h.curX, h.curY, h.latW]

/-- A running pass is at phase `p` of a coordinate of the image, not within `KCHECK`'s loop, and no event
is left. -/
structure AtPhase (p : BitVec 3) (s : State) : Prop where
  busy : s.mode = .busy
  quiet : s.inbox = []
  phase : s.phase = p
  notDecoding : s.work.decoding = false
  inRow : s.work.curX.toNat < s.work.latW.toNat
  inColumn : s.work.curY.toNat < s.work.latH.toNat

/-- The next step is the operation of the phase. -/
theorem AtPhase.step_eq {p : BitVec 3} (h : AtPhase p s) (he : exec (decodeSeq p) s = .next t) :
    step s = .next t := by
  rw [step_nil h.quiet, engineTurn_of_phase h.busy (by simp [atCell, h.notDecoding]), h.phase]
  exact he

theorem AtPhase.move {p q : BitVec 3} {w : Work} (h : AtPhase p s) (hw : SamePlace s.work w)
    (hd : w.decoding = false) : AtPhase q { s with phase := q, work := w } where
  busy := h.busy
  quiet := h.quiet
  phase := rfl
  notDecoding := hd
  inRow := by simpa only [hw.curX, hw.latW] using h.inRow
  inColumn := by simpa only [hw.curY, hw.latH] using h.inColumn

/-- `t` shows what a coordinate came to, from a state `s` at it: the pixel stored and the scan moved on,
the error, or an exchange that stays open. -/
def ShowsPixel (s t : State) : PixelOutcome → Prop
  | .stored p => ∃ w, SamePlace s.work w ∧ t = advance { s with
      omem := storePixel s.omem (4 * pixelsBefore s.work) p
      work := w }
  | .raised e info => t = raiseInPass e info s
  | .unanswered => s.work.latKsrc = .generator ∧ t.mode = .busy ∧ t.phase = 0b010 ∧
      t.genOpen = true ∧ step t = .next t ∧ t.genOut = s.genOut ∧
      pixelsBefore t.work = pixelsBefore s.work
  | .outside => False

/-- What is shown does not depend on the phase and on the other working registers. -/
theorem ShowsPixel.of_samePlace {p : BitVec 3} {w : Work} {o : PixelOutcome}
    (hw : SamePlace s.work w) (h : ShowsPixel { s with phase := p, work := w } t o) :
    ShowsPixel s t o := by
  cases o with
  | stored px =>
    obtain ⟨w', hw', rfl⟩ := h
    refine ⟨w', hw.trans hw', ?_⟩
    simp only [hw.pixelsBefore_eq]
    rfl
  | raised e info =>
    rw [ShowsPixel] at h ⊢
    rw [h]
    simp only [raiseInPass, raise, hw.curX, hw.curY]
    rfl
  | unanswered =>
    obtain ⟨hk, hb, hp, hopen, hstep, hsent, hbefore⟩ := h
    exact ⟨hw.latKsrc.symm.trans hk, hb, hp, hopen, hstep, hsent,
      hbefore.trans hw.pixelsBefore_eq⟩
  | outside => exact h

/-- So an operation that only moves the phase on and writes other working registers comes before a run
that shows the coordinate. -/
theorem ComesTo.of_samePlace {p : BitVec 3} {w : Work} {o : PixelOutcome}
    (hw : SamePlace s.work w)
    (h : ComesTo b (ShowsPixel { s with phase := p, work := w } · o)
      { s with phase := p, work := w }) :
    ComesTo b (ShowsPixel s · o) { s with phase := p, work := w } :=
  h.weaken le_rfl fun _ ht => ht.of_samePlace hw

/-! ### From KSUM on -/

/-- `WRITE` stores the quotients' pixel and ends the coordinate. -/
theorem write_comesTo (h : AtPhase 0b111 s) :
    ComesTo 1 (ShowsPixel s · (.stored (outPixel s.work.quot))) s := by
  refine .after_step (h.step_eq (exec_write_inside h.busy h.inRow h.inColumn))
    (.now ⟨s.work, .update, ?_⟩)
  rw [Nat.mul_comm 4]
  rfl

theorem norm_comesTo (h : AtPhase 0b110 s) (hzero : zeroLanes s.work.ksum = 0) :
    ComesTo 2 (ShowsPixel s · (.stored (outPixel (quotOf s.work.asum s.work.ksum)))) s :=
  .after_step (h.step_eq (exec_norm h.busy hzero))
    (.of_samePlace .update (write_comesTo (h.move .update h.notDecoding)))

theorem mac_comesTo (h : AtPhase 0b101 s) (hzero : zeroLanes s.work.ksum = 0) :
    ComesTo 3 (ShowsPixel s · (.stored
      (outPixel (quotOf (asumOf s.work.win s.work.ker) s.work.ksum)))) s :=
  .after_step (h.step_eq (exec_mac h.busy))
    (.of_samePlace .update (norm_comesTo (h.move .update h.notDecoding) hzero))

/-- `KSUM`, `MAC`, `NORM` and `WRITE` are the filter of the window by the kernel (R143). -/
theorem ksum_comesTo (h : AtPhase 0b100 s) :
    ComesTo 4 (ShowsPixel s · (filterPixel s.work.win s.work.ker)) s := by
  by_cases hzero : zeroLanes (ksumOf s.work.ker) = 0
  · rw [filterPixel_stored hzero]
    exact .after_step (h.step_eq (exec_ksum_sums h.busy hzero))
      (.of_samePlace .update (mac_comesTo (h.move .update h.notDecoding) hzero))
  · rw [filterPixel, if_pos hzero]
    exact .after_step (h.step_eq (exec_ksum_degenerate h.busy hzero)) (.now rfl)

/-! ### KCHECK -/

/-- The expansion of `n` cells reads only the halfwords of those cells. -/
theorem expandCells_congr {read read' : Nat → Option Half} {n : Nat} :
    ∀ {k : Nat}, (∀ i, i ≤ 5 * (k + n) → read i = read' i) →
      expandCells read k n = expandCells read' k n := by
  induction n with
  | zero => exact fun _ => rfl
  | succ n ih =>
    intro k h
    have hcell : cellCode read k = cellCode read' k := by
      simp only [cellCode, h (1 + 5 * k) (by omega), h (2 + 5 * k) (by omega),
        h (3 + 5 * k) (by omega), h (4 + 5 * k) (by omega), h (5 + 5 * k) (by omega)]
    have hrest := ih (k := k + 1) fun i hi => h i (by omega)
    simp only [expandCells, hcell, hrest]

/-- What the kernel source answers for a coordinate is the header in the registers and, where the shape
is the Area's, the record the cells are read from (R106, R109). -/
structure ReadsRecord (s : State) (read : Nat → Option Half) : Prop where
  header : ∃ h, read 0 = some h ∧ s.work.krows = headerRows h ∧ s.work.kcols = headerCols h
  cells : s.work.krows = s.work.rows → s.work.kcols = s.work.cols →
    ∀ i, i ≤ 5 * (s.work.rows.toNat * s.work.cols.toNat) →
      ∃ v, read i = some v ∧ recordHalf s i = some v

variable {read : Nat → Option Half}

/-- A header of another shape than the Area's is `KernelShapeError`, with the four counts (R110). -/
theorem ReadsRecord.checkedPixel_other_shape (h : ReadsRecord s read)
    (hshape : s.work.krows ≠ s.work.rows ∨ s.work.kcols ≠ s.work.cols) (win : List Sample) :
    checkedPixel s.work.rows.toNat s.work.cols.toNat win read = .raised .kernelShape
      (shapeInfo s.work.rows s.work.cols s.work.krows s.work.kcols) := by
  obtain ⟨header, hread, hrows, hcols⟩ := h.header
  simp only [ne_eq, ← BitVec.toNat_inj] at hshape
  simp only [checkedPixel, hread, ← hrows, ← hcols, ne_eq, if_pos hshape, BitVec.ofNat_toNat,
    BitVec.setWidth_eq]

/-- With the Area's shape and a whole record the expansion of its cells decides. -/
theorem checkedPixel_same_shape {rows cols : Nat} {header last : Half} (hread : read 0 = some header)
    (hrows : (headerRows header).toNat = rows) (hcols : (headerCols header).toNat = cols)
    (hlast : read (5 * (rows * cols)) = some last) (win : List Sample) :
    (∀ ker, expandCells read 0 (rows * cols) = .kernel ker →
      checkedPixel rows cols win read = filterPixel win ker) ∧
    (∀ k, expandCells read 0 (rows * cols) = .reserved k →
      checkedPixel rows cols win read =
        .raised .configuration (configInfo 3 (BitVec.ofNat 16 k))) := by
  constructor <;> intro x hx <;> simp [checkedPixel, hread, hrows, hcols, hlast, hx]

theorem ReadsRecord.expandCells_eq (h : ReadsRecord s read) (hrows : s.work.krows = s.work.rows)
    (hcols : s.work.kcols = s.work.cols) :
    expandCells read 0 (s.work.rows.toNat * s.work.cols.toNat) =
      expandCells (recordHalf s) 0 (s.work.rows.toNat * s.work.cols.toNat) :=
  expandCells_congr fun i hi => by
    obtain ⟨v, hv, hv'⟩ := h.cells hrows hcols i (by simpa using hi)
    rw [hv, hv']

/-- The record is whole, so no cell of it is missing. -/
theorem ReadsRecord.expandCells_ne_short (h : ReadsRecord s read)
    (hrows : s.work.krows = s.work.rows) (hcols : s.work.kcols = s.work.cols) :
    expandCells (recordHalf s) 0 (s.work.rows.toNat * s.work.cols.toNat) ≠ .short :=
  Machine.expandCells_ne_short fun j hj => cellCode_of_whole (fun i hi => by
    obtain ⟨v, -, hv⟩ := h.cells hrows hcols i hi
    exact ⟨v, hv⟩) (by simpa using hj)

theorem rows_mul_cols_le (w : Work) : w.rows.toNat * w.cols.toNat ≤ 255 * 255 :=
  Nat.mul_le_mul (Nat.lt_succ_iff.mp w.rows.isLt) (Nat.lt_succ_iff.mp w.cols.isLt)

/-- The shape check and the loop over the cells come to the whole kernel at `KSUM`, or to the error at
the first reserved cell (R110). -/
theorem kcheck_loop (h : AtPhase 0b011 s) (hrows : s.work.krows = s.work.rows)
    (hcols : s.work.kcols = s.work.cols) (hpos : 0 < s.work.rows.toNat * s.work.cols.toNat) :
    (∀ ker, expandCells (recordHalf s) 0 (s.work.rows.toNat * s.work.cols.toNat) = .kernel ker →
      ComesTo (255 * 255 + 1) (· = { s with
        phase := 0b100
        work := { s.work with ker := ker, decoding := false } }) s) ∧
    (∀ k, expandCells (recordHalf s) 0 (s.work.rows.toNat * s.work.cols.toNat) = .reserved k →
      ComesTo (255 * 255 + 1)
        (· = raiseInPass .configuration (configInfo 3 (BitVec.ofNat 16 k)) s) s) := by
  have hstep := step_kcheck_same_shape h.busy h.phase h.notDecoding h.quiet hrows hcols
  have loop : CellsLeft (s.work.rows.toNat * s.work.cols.toNat)
      { s with work := { s.work with ker := [], decoding := true } } :=
    { busy := h.busy
      quiet := h.quiet
      count := Nat.zero_add _
      inLoop := fun _ => ⟨h.phase, rfl⟩
      ended := fun hn => absurd hn hpos.ne' }
  have shows := loop.shows_expansion
  change ShowsCells _ _ (expandCells (recordHalf s) 0 _) at shows
  constructor
  · intro ker he
    rw [he] at shows
    exact .after_step hstep ⟨_, _, rows_mul_cols_le s.work, shows, rfl⟩
  · intro k he
    rw [he] at shows
    obtain ⟨m, hm, hrun⟩ := shows
    exact .after_step hstep ⟨m, _, hm.trans (rows_mul_cols_le s.work), hrun, rfl⟩

/-- `KCHECK` and what follows are the function of the kernel source's answer (R143). -/
theorem kcheck_comesTo (h : AtPhase 0b011 s) (record : ReadsRecord s read)
    (hpos : 0 < s.work.rows.toNat * s.work.cols.toNat) :
    ComesTo (5 + 255 * 255) (ShowsPixel s ·
      (checkedPixel s.work.rows.toNat s.work.cols.toNat s.work.win read)) s := by
  by_cases hshape : s.work.krows ≠ s.work.rows ∨ s.work.kcols ≠ s.work.cols
  · rw [record.checkedPixel_other_shape hshape]
    exact .after_step (h.step_eq (exec_kcheck_other_shape h.busy hshape)) (.now rfl)
  · obtain ⟨hrows, hcols⟩ : s.work.krows = s.work.rows ∧ s.work.kcols = s.work.cols := by
      simpa only [ne_eq, not_or, not_not] using hshape
    obtain ⟨header, hread, hkrows, hkcols⟩ := record.header
    obtain ⟨last, hlast, -⟩ := record.cells hrows hcols _ le_rfl
    obtain ⟨onKernel, onReserved⟩ := checkedPixel_same_shape hread
      (congrArg BitVec.toNat (hkrows.symm.trans hrows))
      (congrArg BitVec.toNat (hkcols.symm.trans hcols)) hlast s.work.win
    obtain ⟨toKernel, toReserved⟩ := kcheck_loop h hrows hcols hpos
    rw [record.expandCells_eq hrows hcols] at onKernel onReserved
    cases he : expandCells (recordHalf s) 0 (s.work.rows.toNat * s.work.cols.toNat) with
    | kernel ker =>
      rw [onKernel ker he]
      refine ((toKernel ker he).then (b' := 4) ?_).weaken (by decide) fun _ => id
      rintro _ rfl
      exact .of_samePlace .update (ksum_comesTo (h.move .update rfl))
    | reserved k =>
      rw [onReserved k he]
      exact (toReserved k he).weaken (by decide) fun _ => id
    | short => exact absurd he (record.expandCells_ne_short hrows hcols)

/-! ### KRESOLVE -/

/-- The kernel source of `s` gives this answer at the coordinate (R107, R109). -/
structure SourceGives (s : State) (read : Nat → Option Half) : Prop where
  fromStatic : s.work.latKsrc = .static → ∀ i, read i = some (kmemHalf s.kmem i)
  fromGenerator : s.work.latKsrc = .generator →
    ∃ answer later, s.genIn = answer :: later ∧ ∀ i, read i = answer[i]?

/-- The Area record of the place of a pass (R72). -/
def placeRecord (imem : List Host.Cell) (w : Work) : List Half :=
  areaRecordAt imem w.latW.toNat w.latH.toNat w.latHalf.toNat (w.curX.toNat, w.curY.toNat)

theorem SamePlace.placeRecord_eq {w w' : Work} (h : SamePlace w w') (imem : List Host.Cell) :
    placeRecord imem w' = placeRecord imem w := by
  simp only [placeRecord, h.curX, h.curY, h.latW, h.latH, h.latHalf]

/-- With the Area of its coordinate in the registers, the record the engine sends is the record of its
place. -/
theorem AreaOk.areaRecord_eq {imem : List Host.Cell} {w : Work} (h : AreaOk imem w) :
    areaRecord w = placeRecord imem w := by
  have hwin := h.win
  have hbox : currentBox w = areaBox w.latW.toNat w.latH.toNat
      w.latHalf.toNat w.curX.toNat w.curY.toNat := rfl
  simp only [placeRecord, areaRecordAt, hwin, areaRecord, boxRecord, ← hbox, ← h.left, ← h.top,
    ← h.right, ← h.bottom, BitVec.ofNat_toNat, BitVec.setWidth_eq]

/-- What a coordinate does on `GEN`: with the generator source its Area record leaves and an answer is
taken, and no exchange stays open (R108, R109). -/
def exchanged (s : State) : State :=
  if s.work.latKsrc = .generator then { s with
    genOpen := false
    genOut := s.genOut ++ [placeRecord s.imem s.work]
    genIn := s.genIn.tail }
  else s

theorem exchanged_of_static (hk : s.work.latKsrc = .static) : exchanged s = s :=
  if_neg (by simp [hk])

theorem exchanged_of_generator (hk : s.work.latKsrc = .generator) : exchanged s = { s with
    genOpen := false
    genOut := s.genOut ++ [placeRecord s.imem s.work]
    genIn := s.genIn.tail } :=
  if_pos hk

@[simp] theorem exchanged_mode (s : State) : (exchanged s).mode = s.mode := by
  unfold exchanged; split_ifs <;> rfl
@[simp] theorem exchanged_work (s : State) : (exchanged s).work = s.work := by
  unfold exchanged; split_ifs <;> rfl
@[simp] theorem exchanged_imem (s : State) : (exchanged s).imem = s.imem := by
  unfold exchanged; split_ifs <;> rfl
@[simp] theorem exchanged_kmem (s : State) : (exchanged s).kmem = s.kmem := by
  unfold exchanged; split_ifs <;> rfl
@[simp] theorem exchanged_omem (s : State) : (exchanged s).omem = s.omem := by
  unfold exchanged; split_ifs <;> rfl
@[simp] theorem exchanged_inbox (s : State) : (exchanged s).inbox = s.inbox := by
  unfold exchanged; split_ifs <;> rfl

theorem exchanged_samePlace {p : BitVec 3} {w : Work} (hw : SamePlace s.work w) :
    exchanged { s with phase := p, work := w } =
      { exchanged s with phase := p, work := w } := by
  cases hk : s.work.latKsrc with
  | static => rw [exchanged_of_static hk, exchanged_of_static (hw.latKsrc.trans hk)]
  | generator =>
    rw [exchanged_of_generator hk, exchanged_of_generator (hw.latKsrc.trans hk)]
    simp only [hw.placeRecord_eq]

/-- An answer that is not complete is a kernel source without a whole record (R113). -/
theorem checkedPixel_of_incomplete {rows cols : BitVec 8} {answer : List Half}
    (hread : ∀ i, read i = answer[i]?) (htake : takeAnswer rows cols answer = none)
    (win : List Sample) : checkedPixel rows.toNat cols.toNat win read = .unanswered := by
  cases answer with
  | nil => simp [checkedPixel, hread]
  | cons h cells =>
    rw [takeAnswer] at htake
    split_ifs at htake with hshape hlen
    obtain ⟨rfl, rfl⟩ := hshape
    have hmissing : (h :: cells).length ≤ 5 * ((headerRows h).toNat * (headerCols h).toNat) :=
      not_le.mp hlen
    simp [checkedPixel, hread, List.getElem?_eq_none hmissing]

/-- A complete answer is read as the record taken of it. -/
theorem readsRecord_of_complete {answer cells : List Half} {h : Half}
    (hread : ∀ i, read i = answer[i]?)
    (htake : takeAnswer s.work.rows s.work.cols answer = some (h, cells))
    (hk : s.work.latKsrc = .generator) : ReadsRecord (takeHeader h (h :: cells) s) read := by
  obtain ⟨rest, rfl, whole⟩ := takeAnswer_some htake
  refine ⟨⟨h, hread 0, rfl, rfl⟩, fun hrows hcols i hi => ?_⟩
  obtain ⟨hcells, hlen⟩ := whole hrows hcols
  have hrecord : recordHalf (takeHeader h (h :: cells) s) i = (h :: cells)[i]? := by
    simp [recordHalf, recordOf, hk]
  rw [takeHeader_work] at hi
  have hi : i < (h :: cells).length := by
    rw [List.length_cons, hlen]
    exact Nat.lt_succ_of_le hi
  refine ⟨(h :: cells)[i], ?_, hrecord.trans (List.getElem?_eq_getElem hi)⟩
  rw [hread, ← List.getElem?_eq_getElem hi, hcells]
  cases i with
  | zero => rfl
  | succ i =>
    rw [List.length_cons, hlen] at hi
    simp only [List.getElem?_cons_succ]
    exact (List.getElem?_take_of_lt (by omega)).symm

/-- With the static source `KRESOLVE` takes the header in `KMEM` (R107). -/
theorem kresolve_static_comesTo (h : AtPhase 0b010 s) (hk : s.work.latKsrc = .static)
    (gives : SourceGives s read) (hpos : 0 < s.work.rows.toNat * s.work.cols.toNat) :
    ComesTo (6 + 255 * 255) (ShowsPixel s ·
      (checkedPixel s.work.rows.toNat s.work.cols.toNat s.work.win read)) s := by
  have hread := gives.fromStatic hk
  refine .after_step (h.step_eq (exec_kresolve_static h.busy hk)) (.of_samePlace .update
    (kcheck_comesTo (h.move .update h.notDecoding)
      ⟨⟨_, hread 0, rfl, rfl⟩, fun _ _ i _ => ⟨_, hread i, ?_⟩⟩ hpos))
  simp [recordHalf, recordOf, hk]

/-- With the generator source it sends the Area record and takes the answer, or waits for ever (R108,
R109, R113). -/
theorem kresolve_generator_comesTo (h : AtPhase 0b010 s) (hk : s.work.latKsrc = .generator)
    (gives : SourceGives s read) (area : AreaOk s.imem s.work) (hopen : s.genOpen = false) :
    ComesTo (6 + 255 * 255) (ShowsPixel (exchanged s) ·
      (checkedPixel s.work.rows.toNat s.work.cols.toNat s.work.win read)) s := by
  obtain ⟨answer, later, hin, hread⟩ := gives.fromGenerator hk
  have hsend := sendArea_eq_update s
  rw [if_neg (by simp [hopen]), area.areaRecord_eq] at hsend
  cases htake : takeAnswer s.work.rows s.work.cols answer with
  | none =>
    have waits : Unanswered s := ⟨h.busy, h.phase, hk, h.quiet, by
      rintro _ _ e
      cases hin.symm.trans e
      exact htake⟩
    rw [checkedPixel_of_incomplete hread htake]
    refine .after_step waits.step_eq (.now ?_)
    rw [exchanged_of_generator hk]
    refine ⟨hk, by simp [h.busy], by simp [h.phase], sendArea_genOpen s, ?_, by rw [hsend],
      by simp⟩
    rw [waits.after_sendArea.step_eq, sendArea_idem]
  | some taken =>
    obtain ⟨header, cells⟩ := taken
    have hstep := h.step_eq (exec_kresolve_generator h.busy hk)
    rw [receiveRecord_of_some (s := sendArea s) (by simpa using hin) (by simpa using htake),
      hsend] at hstep
    have record := readsRecord_of_complete hread htake hk
    rw [exchanged_of_generator hk, hin]
    exact .after_step hstep (.of_samePlace .update (kcheck_comesTo
      ⟨h.busy, h.quiet, rfl, h.notDecoding, h.inRow, h.inColumn⟩
      ⟨record.header, record.cells⟩ area.cells_pos))

/-- `KRESOLVE` and what follows, with either source (R106). -/
theorem kresolve_comesTo (h : AtPhase 0b010 s) (gives : SourceGives s read)
    (area : AreaOk s.imem s.work) (hopen : s.genOpen = false) :
    ComesTo (6 + 255 * 255) (ShowsPixel (exchanged s) ·
      (checkedPixel s.work.rows.toNat s.work.cols.toNat s.work.win read)) s := by
  cases hk : s.work.latKsrc with
  | static =>
    rw [exchanged_of_static hk]
    exact kresolve_static_comesTo h hk gives area.cells_pos
  | generator => exact kresolve_generator_comesTo h hk gives area hopen

/-! ### COLLECT -/

/-- At the place of a pass `ConvPixel` is the check of the source's answer to the record sent there. -/
theorem convPixel_current {w : Work} {imem : List Host.Cell} (area : AreaOk imem w) (ksrc : KernelFn)
    (hx : w.curX.toNat < w.latW.toNat) (hy : w.curY.toNat < w.latH.toNat) :
    convPixel imem w.latW.toNat w.latH.toNat w.latHalf.toNat ksrc w.curX.toNat w.curY.toNat =
      checkedPixel w.rows.toNat w.cols.toNat w.win (ksrc (placeRecord imem w)) := by
  have hwin := area.win
  rw [area.rows, area.cols, placeRecord, areaRecordAt, convPixel, if_pos ⟨hx, hy⟩]
  rw [currentBox] at hwin ⊢
  simp only [hwin]

theorem exec_collect_samePlace (hb : s.mode = .busy) (scan : ScanOk s.work) :
    ∃ w, exec .collect s = .next { s with phase := 0b010, work := w } ∧ SamePlace s.work w ∧
      w.decoding = s.work.decoding ∧ AreaOk s.imem w := by
  obtain ⟨_, _, _, _, _, _, _, he, area⟩ := exec_collect_inside hb scan
  exact ⟨_, he, .update, rfl, area⟩

/-- The run of one coordinate is `ConvPixel` (R143). -/
theorem coordinate_comesTo (h : AtPhase 0b001 s) (inv : s.Inv) {ksrc : KernelFn}
    (gives : SourceGives s (ksrc (placeRecord s.imem s.work))) :
    ComesTo (7 + 255 * 255) (ShowsPixel (exchanged s) · (convPixel s.imem s.work.latW.toNat
      s.work.latH.toNat s.work.latHalf.toNat ksrc s.work.curX.toNat s.work.curY.toNat)) s := by
  obtain ⟨w, he, hw, hdecoding, area⟩ := exec_collect_samePlace h.busy (inv.pass h.busy).scan
  have next : AtPhase 0b010 { s with phase := 0b010, work := w } :=
    h.move hw (hdecoding.trans h.notDecoding)
  have outcome := convPixel_current area ksrc next.inRow next.inColumn
  rw [hw.latW, hw.latH, hw.latHalf, hw.curX, hw.curY, hw.placeRecord_eq] at outcome
  rw [outcome]
  have resolved := kresolve_comesTo next
    ⟨fun hk => gives.fromStatic (hw.latKsrc.symm.trans hk),
      fun hk => gives.fromGenerator (hw.latKsrc.symm.trans hk)⟩ area
    (inv.closed (by simp [h.phase]))
  rw [exchanged_samePlace hw] at resolved
  exact .after_step (h.step_eq he) (resolved.weaken le_rfl fun t shown =>
    shown.of_samePlace (s := exchanged s) (by rwa [exchanged_work]))

end Sys2Proof.Machine
end

section
/-! A pass in big-step form (45_sequencer_commands.md R144, R146): its run is the coordinates in raster
order, up to the first error or the first exchange without an answer, with each pixel stored behind those
before it and each Area record sent once. -/

namespace Sys2Proof.Machine

variable {s t : State}

/-! ### The pixels of the output (R131, R133) -/

/-- The pixel at index `k`, if its four bytes are stored. -/
def storedPixel (m : List Host.Cell) (k : Nat) : Option Sample :=
  match Memory.get m (4 * k), Memory.get m (4 * k + 1), Memory.get m (4 * k + 2),
    Memory.get m (4 * k + 3) with
  | some r, some g, some b, some a => some ⟨r, g, b, a⟩
  | _, _, _, _ => none

/-- A valid output shows the pixels stored (R29). -/
theorem outputPixel_of_valid (hv : s.omemValid = true) (k : Nat) :
    outputPixel s k = storedPixel s.omem k := by
  simp only [outputPixel, outputByte, if_pos hv]
  rfl

theorem storedPixel_of_unwritten {m : List Host.Cell} {k : Nat} (h : Memory.get m (4 * k) = none) :
    storedPixel m k = none := by
  simp only [storedPixel, h]

theorem storedPixel_storePixel (m : List Host.Cell) (n : Nat) (p : Sample) (k : Nat) :
    storedPixel (storePixel m (4 * n) p) k = if k = n then some p else storedPixel m k := by
  split_ifs with hk
  · subst hk
    obtain ⟨hr, hg, hb, ha⟩ := storePixel_bytes m (4 * k) p
    simp only [storedPixel, hr, hg, hb, ha]
  · have other : ∀ i, i < 4 → Memory.get (storePixel m (4 * n) p) (4 * k + i) =
        Memory.get m (4 * k + i) := fun i hi => storePixel_get_outside m p (by omega)
    have first := other 0 (by decide)
    simp only [Nat.add_zero] at first
    simp only [storedPixel, first, other 1 (by decide), other 2 (by decide), other 3 (by decide)]

/-- A pixel stored behind those before it. -/
theorem storedPixel_append {m : List Host.Cell} {pixels : List Sample}
    (h : ∀ k, storedPixel m k = pixels[k]?) (p : Sample) (k : Nat) :
    storedPixel (storePixel m (4 * pixels.length) p) k = (pixels ++ [p])[k]? := by
  rw [storedPixel_storePixel, h]
  split_ifs with hk
  · rw [hk, List.getElem?_concat_length]
  · obtain hbefore | hbehind := Nat.lt_or_gt_of_ne hk
    · exact (List.getElem?_append_left hbefore).symm
    · rw [List.getElem?_eq_none hbehind.le, List.getElem?_eq_none]
      simpa using hbehind

/-! ### The coordinates in raster order (R144) -/

theorem rasterCoords_length (W H : Nat) : (rasterCoords W H).length = W * H := by
  simp [rasterCoords, List.length_flatMap, Nat.mul_comm]

theorem rasterCoords_get {W H x y : Nat} (hx : x < W) (hy : y < H) :
    (rasterCoords W H)[y * W + x]? = some (x, y) :=
  rowMajor_get (fun y x => (x, y)) hy hx

theorem rasterCoords_drop {W H x y : Nat} (hx : x < W) (hy : y < H) :
    (rasterCoords W H).drop (y * W + x) =
      (x, y) :: (rasterCoords W H).drop (y * W + x + 1) := by
  obtain ⟨hlt, hget⟩ := List.getElem?_eq_some_iff.mp (rasterCoords_get hx hy)
  rw [List.drop_eq_getElem_cons hlt, hget]

/-- What is still to come of a pass (R146). -/
def remaining (ksrc : KernelFn) (s : State) : PassOutcome :=
  passOver (convPixel s.imem s.work.latW.toNat s.work.latH.toNat s.work.latHalf.toNat ksrc)
    ((rasterCoords s.work.latW.toNat s.work.latH.toNat).drop (pixelsBefore s.work))

variable {ksrc : KernelFn}

/-- At a coordinate of the image its outcome comes first, then the rest. -/
theorem remaining_eq (ksrc : KernelFn) (hx : s.work.curX.toNat < s.work.latW.toNat)
    (hy : s.work.curY.toNat < s.work.latH.toNat) :
    remaining ksrc s =
      passOver (convPixel s.imem s.work.latW.toNat s.work.latH.toNat s.work.latHalf.toNat ksrc)
        ((s.work.curX.toNat, s.work.curY.toNat) ::
          (rasterCoords s.work.latW.toNat s.work.latH.toNat).drop (pixelsBefore s.work + 1)) := by
  rw [remaining, pixelsBefore, rasterCoords_drop hx hy]

/-- The kernel source of a pass is this function (R146): the record in `KMEM`, or a generator whose next
answers are the function's, coordinate by coordinate. -/
structure Serves (ksrc : KernelFn) (s : State) : Prop where
  fromStatic : s.work.latKsrc = .static → ksrc = staticKernel s.kmem
  fromGenerator : s.work.latKsrc = .generator → ∀ n c,
    (rasterCoords s.work.latW.toNat s.work.latH.toNat)[pixelsBefore s.work + n]? = some c →
    ∃ answer, s.genIn[n]? = some answer ∧ ∀ i, ksrc (areaRecordAt s.imem s.work.latW.toNat
      s.work.latH.toNat s.work.latHalf.toNat c) i = answer[i]?

theorem Serves.gives (h : Serves ksrc s) (hx : s.work.curX.toNat < s.work.latW.toNat)
    (hy : s.work.curY.toNat < s.work.latH.toNat) :
    SourceGives s (ksrc (placeRecord s.imem s.work)) where
  fromStatic hk i := by rw [h.fromStatic hk]; rfl
  fromGenerator hk := by
    obtain ⟨answer, hanswer, hread⟩ := h.fromGenerator hk 0 _ (rasterCoords_get hx hy)
    cases hin : s.genIn with
    | nil => simp [hin] at hanswer
    | cons first later =>
      obtain rfl : first = answer := by simpa [hin] using hanswer
      exact ⟨first, later, rfl, hread⟩

/-- From `s` the pass has gone on to the next coordinate `t`, with the pixel stored. -/
structure NextCoordinate (s t : State) (p : Sample) : Prop where
  mode : t.mode = s.mode
  phase : t.phase = 0b001
  inbox : t.inbox = s.inbox
  imem : t.imem = s.imem
  kmem : t.kmem = s.kmem
  latW : t.work.latW = s.work.latW
  latH : t.work.latH = s.work.latH
  latHalf : t.work.latHalf = s.work.latHalf
  latKsrc : t.work.latKsrc = s.work.latKsrc
  before : pixelsBefore t.work = pixelsBefore s.work + 1
  omem : t.omem = storePixel s.omem (4 * pixelsBefore s.work) p
  sent : t.genOut = (exchanged s).genOut
  answers : t.genIn = (exchanged s).genIn

/-- A pixel stored is followed by the next coordinate or, at the last, by completion (R144, R145). -/
theorem shows_stored_cases {p : Sample} (h : ShowsPixel (exchanged s) t (.stored p))
    (hx : s.work.curX.toNat < s.work.latW.toNat) (hy : s.work.curY.toNat < s.work.latH.toNat) :
    NextCoordinate s t p ∨
    (pixelsBefore s.work + 1 = s.work.latW.toNat * s.work.latH.toNat ∧
      t = complete { exchanged s with
        omem := storePixel s.omem (4 * pixelsBefore s.work) p }) := by
  obtain ⟨w, hw, rfl⟩ := h
  rw [exchanged_work] at hw
  rw [exchanged_work, exchanged_omem]
  obtain ⟨x, y, hnext, e⟩ | ⟨hnext, e⟩ := advance_cases { exchanged s with
    omem := storePixel s.omem (4 * pixelsBefore s.work) p, work := w }
  all_goals
    rw [e]
    simp only [hw.latW, hw.latH, hw.curX, hw.curY] at hnext
    obtain ⟨x', y', e', hx', hy', hbefore⟩ | ⟨e', hx', hy'⟩ := nextPos_spec hx hy
  · obtain ⟨rfl, rfl⟩ : x' = x ∧ y' = y := by simpa [hnext, eq_comm] using e'
    refine .inl ⟨exchanged_mode s, rfl, exchanged_inbox s, exchanged_imem s, exchanged_kmem s,
      hw.latW, hw.latH, hw.latHalf, hw.latKsrc, ?_, rfl, rfl, rfl⟩
    simp only [pixelsBefore, toNat_ofNat_of_lt (hx'.trans s.work.latW.isLt),
      toNat_ofNat_of_lt (hy'.trans s.work.latH.isLt), hw.latW, hbefore]
  · cases hnext.symm.trans e'
  · cases hnext.symm.trans e'
  · refine .inr ⟨?_, rfl⟩
    rw [pixelsBefore, ← hx', ← hy']
    ring

theorem NextCoordinate.remaining_eq {p : Sample} (h : NextCoordinate s t p) :
    remaining ksrc t =
      passOver (convPixel s.imem s.work.latW.toNat s.work.latH.toNat s.work.latHalf.toNat ksrc)
        ((rasterCoords s.work.latW.toNat s.work.latH.toNat).drop (pixelsBefore s.work + 1)) := by
  simp only [remaining, h.imem, h.latW, h.latH, h.latHalf, h.before]

/-- The answers to come are those of the coordinates to come. -/
theorem NextCoordinate.serves {p : Sample} (h : NextCoordinate s t p) (serves : Serves ksrc s) :
    Serves ksrc t where
  fromStatic hk := by
    rw [h.kmem]
    exact serves.fromStatic (h.latKsrc.symm.trans hk)
  fromGenerator hk n c hc := by
    rw [h.latKsrc] at hk
    simp only [h.imem, h.latW, h.latH, h.latHalf, h.before, h.answers, exchanged_of_generator hk,
      List.getElem?_tail, Nat.add_assoc, Nat.add_comm 1 n] at hc ⊢
    exact serves.fromGenerator hk (n + 1) c hc

/-- A pass is at the beginning of a coordinate, with these pixels stored and the kernel source this
function. -/
structure AtCoordinate (ksrc : KernelFn) (pixels : List Sample) (s : State) : Prop where
  inv : s.Inv
  busy : s.mode = .busy
  phase : s.phase = 0b001
  quiet : s.inbox = []
  serves : Serves ksrc s
  count : pixels.length = pixelsBefore s.work
  stored : ∀ k, storedPixel s.omem k = pixels[k]?

theorem AtCoordinate.atPhase {pixels : List Sample} (h : AtCoordinate ksrc pixels s) :
    AtPhase 0b001 s := by
  have pass := h.inv.passAt h.busy h.phase
  exact ⟨h.busy, h.quiet, h.phase,
    Bool.eq_false_iff.mpr fun hd => absurd (pass.cells hd).1 (by decide),
    pass.scan.inRow, pass.scan.inColumn⟩

theorem AtCoordinate.next {pixels : List Sample} {p : Sample} (h : AtCoordinate ksrc pixels s)
    (next : NextCoordinate s t p) (inv : t.Inv) : AtCoordinate ksrc (pixels ++ [p]) t where
  inv := inv
  busy := next.mode.trans h.busy
  phase := next.phase
  quiet := next.inbox.trans h.quiet
  serves := next.serves h.serves
  count := by rw [List.length_append, h.count, next.before]; rfl
  stored k := by
    rw [next.omem, ← h.count]
    exact storedPixel_append h.stored p k

/-! ### Outcomes of a pass -/

theorem foldr_consPixel_done (pixels later : List Sample) :
    pixels.foldr consPixel (.done later) = .done (pixels ++ later) := by
  induction pixels with
  | nil => rfl
  | cons p pixels ih => rw [List.foldr_cons, ih]; rfl

/-- An outcome without an output is not changed by the pixels before it (R162). -/
theorem foldr_consPixel_of_fixed {o : PassOutcome} (h : ∀ p, consPixel p o = o)
    (pixels : List Sample) : pixels.foldr consPixel o = o := by
  induction pixels with
  | nil => rfl
  | cons p pixels ih => rw [List.foldr_cons, ih, h]

theorem foldr_consPixel_snoc (pixels : List Sample) (p : Sample) (o : PassOutcome) :
    pixels.foldr consPixel (consPixel p o) = (pixels ++ [p]).foldr consPixel o := by
  rw [List.foldr_append]
  rfl

/-- The Area records of the coordinates from the scan position of `s` up to the number `upTo` in raster
order have been sent in `t`, once each (R108). -/
def SentUpTo (upTo : Nat) (s t : State) : Prop :=
  ∃ sent, pixelsBefore s.work + sent = upTo ∧ t.genOut = s.genOut ++
    (((rasterCoords s.work.latW.toNat s.work.latH.toNat).drop (pixelsBefore s.work)).take sent).map
      (areaRecordAt s.imem s.work.latW.toNat s.work.latH.toNat s.work.latHalf.toNat)

/-- How many coordinates of a `W` by `H` image a pass that shows its outcome in `t` has come to. -/
def coordinatesReached (W H : Nat) (t : State) : Nat :=
  match t.mode with
  | .done => W * H
  | .error => t.errY.toNat * W + t.errX.toNat + 1
  | .busy => pixelsBefore t.work + 1
  | .idle => 0

/-- How a pass that is at a coordinate in `s` ends in `t`. -/
structure PassEnds (s t : State) (o : PassOutcome) : Prop where
  shows : showsOutcome t o
  static : s.work.latKsrc = .static → t.mode ≠ .busy
  sent : s.work.latKsrc = .generator →
    SentUpTo (coordinatesReached s.work.latW.toNat s.work.latH.toNat t) s t

/-- A coordinate's exchange sends the record of the coordinate. -/
theorem sentUpTo_exchanged (hk : s.work.latKsrc = .generator)
    (hx : s.work.curX.toNat < s.work.latW.toNat) (hy : s.work.curY.toNat < s.work.latH.toNat)
    (h : t.genOut = (exchanged s).genOut) : SentUpTo (pixelsBefore s.work + 1) s t := by
  refine ⟨1, rfl, ?_⟩
  rw [h, exchanged_of_generator hk, pixelsBefore, rasterCoords_drop hx hy]
  rfl

theorem SentUpTo.next {upTo : Nat} {p : Sample} {u : State} (next : NextCoordinate s u p)
    (hk : s.work.latKsrc = .generator)
    (hx : s.work.curX.toNat < s.work.latW.toNat) (hy : s.work.curY.toNat < s.work.latH.toNat)
    (h : SentUpTo upTo u t) : SentUpTo upTo s t := by
  obtain ⟨sent, hcount, hsent⟩ := h
  refine ⟨sent + 1, by rw [← hcount, next.before]; omega, ?_⟩
  have hdrop := rasterCoords_drop hx hy
  rw [← pixelsBefore] at hdrop
  rw [hsent, next.sent, next.imem, next.latW, next.latH, next.latHalf, next.before, hdrop,
    exchanged_of_generator hk]
  simp [placeRecord]

theorem PassEnds.next {o : PassOutcome} {p : Sample} {u : State} (next : NextCoordinate s u p)
    (hx : s.work.curX.toNat < s.work.latW.toNat) (hy : s.work.curY.toNat < s.work.latH.toNat)
    (h : PassEnds u t o) : PassEnds s t o where
  shows := h.shows
  static hk := h.static (next.latKsrc.trans hk)
  sent hk := by
    have hsent := h.sent (next.latKsrc.trans hk)
    rw [next.latW, next.latH] at hsent
    exact hsent.next next hk hx hy

/-! ### The pass -/

variable {pixels : List Sample}

/-- An error at a coordinate ends the pass there (R161, R162). -/
theorem passEnds_raised (hx : s.work.curX.toNat < s.work.latW.toNat)
    (hy : s.work.curY.toNat < s.work.latH.toNat) {e : ErrCode} {info : RegWord}
    (h : ShowsPixel (exchanged s) t (.raised e info)) :
    PassEnds s t (.error e s.work.curX.toNat s.work.curY.toNat info) := by
  obtain rfl : t = raiseInPass e info (exchanged s) := h
  exact {
    shows := ⟨rfl, rfl, by simp, by simp, rfl, outputByte_raiseInPass e info _⟩
    static := fun _ => by simp
    sent := fun hk => by
      simp only [coordinatesReached, raiseInPass_mode, raiseInPass_errX, raiseInPass_errY,
        exchanged_work]
      exact sentUpTo_exchanged hk hx hy rfl }

/-- An exchange without an answer ends nothing (R113). -/
theorem passEnds_unanswered (hx : s.work.curX.toNat < s.work.latW.toNat)
    (hy : s.work.curY.toNat < s.work.latH.toNat)
    (h : ShowsPixel (exchanged s) t .unanswered) : PassEnds s t .waiting := by
  obtain ⟨hk, hb, hphase, hopen, hstep, hsent, hbefore⟩ := h
  rw [exchanged_work] at hk hbefore
  exact {
    shows := ⟨hb, hphase, hopen, hstep⟩
    static := fun hs => by simp [hk] at hs
    sent := fun _ => by
      simp only [coordinatesReached, hb, hbefore]
      exact sentUpTo_exchanged hk hx hy hsent }

/-- The last pixel stored completes the pass, whose output is every pixel (R145). -/
theorem passEnds_complete (h : AtCoordinate ksrc pixels s) {p : Sample}
    (hlast : pixelsBefore s.work + 1 = s.work.latW.toNat * s.work.latH.toNat)
    (ht : t = complete { exchanged s with
      omem := storePixel s.omem (4 * pixelsBefore s.work) p }) :
    PassEnds s t (.done (pixels ++ [p])) := by
  subst ht
  exact {
    shows := ⟨rfl, fun k => by
      rw [outputPixel_of_valid rfl, ← h.count]
      exact storedPixel_append h.stored p k⟩
    static := fun _ => by simp
    sent := fun hk => by
      simp only [coordinatesReached, complete_mode, ← hlast]
      exact sentUpTo_exchanged hk h.atPhase.inRow h.atPhase.inColumn rfl }

/-- A pass left alone with `n` coordinates to go ends in bounded steps as its big-step form says. -/
theorem AtCoordinate.comesTo_end {n : Nat} (h : AtCoordinate ksrc pixels s)
    (hn : pixelsBefore s.work + n = s.work.latW.toNat * s.work.latH.toNat) :
    ComesTo (n * (7 + 255 * 255))
      (fun t => PassEnds s t (pixels.foldr consPixel (remaining ksrc s))) s := by
  induction n generalizing s pixels with
  | zero =>
    have hlt := rasterIndex_lt h.atPhase.inRow h.atPhase.inColumn
    rw [← pixelsBefore] at hlt
    omega
  | succ n ih =>
    have here := h.atPhase
    have hx := here.inRow
    have hy := here.inColumn
    rw [Nat.succ_mul, Nat.add_comm, remaining_eq ksrc hx hy, passOver]
    refine ((coordinate_comesTo here h.inv (h.serves.gives hx hy)).with_inv h.inv).then ?_
    rintro t ⟨inv, shown⟩
    cases ho : convPixel s.imem s.work.latW.toNat s.work.latH.toNat s.work.latHalf.toNat ksrc
        s.work.curX.toNat s.work.curY.toNat with
    | stored p =>
      rw [ho] at shown
      simp only [foldr_consPixel_snoc]
      obtain next | ⟨hlast, ht⟩ := shows_stored_cases shown hx hy
      · rw [← next.remaining_eq]
        refine (ih (h.next next inv) ?_).weaken le_rfl fun u hu => hu.next next hx hy
        rw [next.before, next.latW, next.latH, ← hn]
        omega
      · rw [List.drop_of_length_le (by rw [rasterCoords_length, hlast]), passOver,
          foldr_consPixel_done, List.append_nil]
        exact .now (passEnds_complete h hlast ht)
    | raised e info =>
      rw [ho] at shown
      simp only [foldr_consPixel_of_fixed (o := .error e _ _ info) fun _ => rfl]
      exact .now (passEnds_raised hx hy shown)
    | unanswered =>
      rw [ho] at shown
      simp only [foldr_consPixel_of_fixed (o := .waiting) fun _ => rfl]
      exact .now (passEnds_unanswered hx hy shown)
    | outside =>
      rw [ho] at shown
      exact shown.elim

theorem PassStart.pixelsBefore_eq (h : PassStart s) : pixelsBefore s.work = 0 := by
  simp [pixelsBefore, h.atX, h.atY]

/-- A pass just accepted is at its first coordinate, with nothing stored. -/
theorem PassStart.atCoordinate (h : PassStart s) (serves : Serves ksrc s) :
    AtCoordinate ksrc [] s where
  inv := h.inv
  busy := h.busy
  phase := h.collect
  quiet := h.quiet
  serves := serves
  count := h.pixelsBefore_eq.symm
  stored k := by
    have written := (h.inv.pass h.busy).written
    rw [h.pixelsBefore_eq] at written
    exact storedPixel_of_unwritten (by simpa using written (4 * k))

theorem PassStart.remaining_eq (h : PassStart s) (ksrc : KernelFn) :
    remaining ksrc s = wholePass s.imem s.work.latW.toNat s.work.latH.toNat
      s.work.latHalf.toNat ksrc := by
  rw [remaining, h.pixelsBefore_eq, List.drop_zero, wholePass]

/-- The whole pass from its acceptance. -/
theorem PassStart.comesTo_end (h : PassStart s) (serves : Serves ksrc s) :
    ComesTo (s.work.latW.toNat * s.work.latH.toNat * (7 + 255 * 255))
      (fun t => PassEnds s t (wholePass s.imem s.work.latW.toNat s.work.latH.toNat
        s.work.latHalf.toNat ksrc)) s := by
  rw [← h.remaining_eq]
  exact (h.atCoordinate serves).comesTo_end (by rw [h.pixelsBefore_eq, Nat.zero_add])

/-- The static source serves the record in `KMEM`. -/
theorem serves_static (hk : s.work.latKsrc = .static) : Serves (staticKernel s.kmem) s where
  fromStatic _ := rfl
  fromGenerator hg := by simp [hk] at hg

/-- A generator whose answers are a function's serves the function. -/
theorem PassStart.serves_generator (h : PassStart s) (hk : s.work.latKsrc = .generator)
    {gen : List Half → List Half} {later : List (List Half)}
    (hin : s.genIn = (rasterCoords s.work.latW.toNat s.work.latH.toNat).map (fun c =>
      gen (areaRecordAt s.imem s.work.latW.toNat s.work.latH.toNat s.work.latHalf.toNat c)) ++
      later) : Serves (generatorKernel gen) s where
  fromStatic hs := by simp [hk] at hs
  fromGenerator _ n c hc := by
    rw [h.pixelsBefore_eq, Nat.zero_add] at hc
    obtain ⟨hlt, -⟩ := List.getElem?_eq_some_iff.mp hc
    refine ⟨_, ?_, fun _ => rfl⟩
    rw [hin, List.getElem?_append_left (by rwa [List.length_map]), List.getElem?_map, hc]
    rfl

end Sys2Proof.Machine

open Sys2Proof Sys2Proof.Machine

/-- Settles O59: by the run of the coordinates in raster order. -/
theorem staticPassIsTheBigStep : Obligations.StaticPassIsTheBigStep := by
  intro s start hk
  obtain ⟨n, t, hn, hrun, ends⟩ := start.comesTo_end (serves_static hk)
  exact ⟨n, t, hn, hrun, ends.static hk, ends.shows⟩

/-- Settles O60: by the same run, whose exchanges are counted. -/
theorem generatorPassIsTheBigStep : Obligations.GeneratorPassIsTheBigStep := by
  intro s gen later start hk hin
  obtain ⟨n, t, -, hrun, ends⟩ := start.comesTo_end (start.serves_generator hk hin)
  obtain ⟨sent, hcount, hsent⟩ := ends.sent hk
  rw [start.pixelsBefore_eq, Nat.zero_add] at hcount
  rw [start.pixelsBefore_eq, List.drop_zero] at hsent
  refine ⟨n, t, sent, hrun, ends.shows, hsent, fun hm => ?_, fun hm => ?_, fun hm => ?_⟩ <;>
    rw [hcount, coordinatesReached, hm]

end

section
/-! The reset input, and a machine at rest: `BUSY = 0` and no event left. -/

namespace Sys2Proof.Machine

variable {s : State} {later : List Event}

theorem step_reset (h : s.inbox = .reset :: later) :
    step s = .next (resetMachine { s with inbox := later }) :=
  step_cons h

/-- No byte of `OMEM` has a specified value while the output is not valid (R29, R52). -/
theorem outputByte_of_invalid (h : s.omemValid = false) (a : Nat) : outputByte s a = none := by
  simp [outputByte, h]

/-- At rest the engine's turn is `IDLE`, which changes nothing (R19; log 22). -/
theorem step_at_rest (hb : s.mode ≠ .busy) (hin : s.inbox = []) : step s = .next s := by
  rw [step_nil hin, engineTurn_of_not_busy hb]
  exact (nopAndIdleChangeNothing.1 s).2

theorem run_of_step_self (h : step s = .next s) (n : Nat) : run n s = .next s := by
  induction n with
  | zero => rw [run]
  | succ n ih => rw [run_succ_of_step h, ih]

end Sys2Proof.Machine

open Sys2Proof Sys2Proof.Machine

/-- Settles O44: the state after it is `resetMachine`'s, which is at rest once no event is left. -/
theorem resetInput : Obligations.ResetInput := by
  intro s later hin
  refine ⟨_, step_reset hin, rfl, rfl, rfl, rfl, rfl, rfl, rfl, rfl, rfl, rfl, rfl, rfl,
    outputByte_of_invalid rfl, rfl, rfl, rfl, fun hlater => ?_⟩
  exact run_of_step_self (step_at_rest (by simp) hlater)

end
